-- ==== Sys2Proof/Word.lean ====
section
/-! DEFINITION. The words of the block (spec/00_scope.md R7): all unsigned, none wider than a byte but the
millisecond count handed to the Clock. -/

namespace Sys2Proof

/-- A byte: a frame byte, a packet byte, an operand (R7, R63). -/
abbrev Byte := BitVec 8

/-- A 7-bit I2C device address, unshifted and without a read/write bit (R13, R31). -/
abbrev DevAddr := BitVec 7

/-- A number of milliseconds, 16 bits (R44). -/
abbrev Millis := BitVec 16

end Sys2Proof
end

