-- ==== Sys2Proof/Config.lean ====
section
/-! DEFINITION. The implementation parameters of spec/00_scope.md R6. `INIT_SETS_RGB` is false (R6, D8, C2): INIT's
table has no colour row, so the parameter leaves no definition here. -/

namespace Sys2Proof.Config

/-- `ADDR_LCD`. DESIGN CHOICE (unsafe), log entry 6: R6 leaves it OPEN; this is the document's historical default
(R13, V8). It is only the value `State.reset` starts from: the machine reads the field of State, of any value. -/
def addrLcd : DevAddr := 0x3E#7

/-- `ADDR_RGB`. DESIGN CHOICE (unsafe), log entry 6, as `addrLcd`. -/
def addrRgb : DevAddr := 0x60#7

/-- `SHOW_FUNCTION` = 0x08 (R6, R14, D2). -/
def showFunction : Byte := 0x08#8

/-- `T_POWERON` = 80 ms (R6, D9). -/
def tPowerOn : Millis := 80#16

/-- `T_FSET` = 5 ms (R6, D9). -/
def tFset : Millis := 5#16

/-- `T_CLEAR` = 2 ms (R6, D9). -/
def tClear : Millis := 2#16

/-- `EW` = 8, the width of an error code in the signal binding only (R6, R49, D14). -/
abbrev ew : Nat := 8

/-- Which naturals besides 0 name a bus error value: OPEN (R6, D14), so it has no body. -/
opaque isError : Nat → Bool

end Sys2Proof.Config

namespace Sys2Proof

/-- `E`, a non-empty type of opaque bus error values, OPEN (R6, D14): 0 and whichever naturals `Config.isError` picks.
Nothing says how many values that is, one or more. DESIGN CHOICE (safe), log entry 8. The block copies a value and never
looks inside (R32). -/
abbrev BusErr := { n : Nat // n = 0 ∨ Config.isError n = true }

/-- The code that stands for an error value on the wires `bus_code` and `rsp_err` (R49): OPEN, log entry 8. -/
opaque Config.errorCode : BusErr → BitVec Config.ew

end Sys2Proof
end

