-- ==== Sys2Proof/Syntax.lean ====
section
/-! DEFINITION. The instructions: one constructor per row of spec/opcode_table.json. The first ten are the host layer
(the nine operations of R3 and the illegal byte of R64); the last twelve are the frame layer, the twelve kinds of frame
the block puts on the bus (R50 to R59). -/

namespace Sys2Proof

/-- An instruction of the block. -/
inductive Instr where
  /-- INIT (R85 to R92). -/
  | init
  /-- CLEAR (R100). -/
  | clear
  /-- SET_DISPLAY `n`; `n` true is "on" (R102). -/
  | setDisplay (n : Bool)
  /-- SET_CURSOR `n` (R103). -/
  | setCursor (n : Bool)
  /-- SET_BLINK `n` (R104). -/
  | setBlink (n : Bool)
  /-- SET_CURSOR_POSITION `col`, `w`: `w` is the one row bit, false for row 0 and true for row 1 (R62, R101). -/
  | setCursorPosition (col : Byte) (w : Bool)
  /-- WRITE_CHAR `c` (R106). -/
  | writeChar (c : Byte)
  /-- WRITE_STR `str` (R108). -/
  | writeStr (str : List Byte)
  /-- SET_RGB `r`, `g`, `b` (R120). -/
  | setRgb (r g b : Byte)
  /-- A packet of one byte that is no opcode (R64, R133). -/
  | illegal (byte0 : Byte)
  /-- Frame LCD_CLEAR, command 0x01 (R58). -/
  | lcdClear
  /-- Frame LCD_ENTRY_MODE, command 0x06 (R57). -/
  | lcdEntryMode
  /-- Frame LCD_CONTROL, command `00001dcb` (R55). -/
  | lcdControl (d c b : Bool)
  /-- Frame LCD_FUNCTION_SET, command `0x20 | SHOW_FUNCTION` (R54). -/
  | lcdFunctionSet
  /-- Frame LCD_SET_DDRAM, command `1aaaaaaa` (R56). -/
  | lcdSetDdram (a : BitVec 7)
  /-- Frame LCD_DATA, character code `c` (R51). -/
  | lcdData (c : Byte)
  /-- Frame RGB_MODE1, register 0x00 := 0x00 (R59). -/
  | rgbMode1
  /-- Frame RGB_LEDOUT, register 0x08 := 0xFF (R59). -/
  | rgbLedout
  /-- Frame RGB_MODE2, register 0x01 := 0x20 (R59). -/
  | rgbMode2
  /-- Frame RGB_RED, register 0x04 := `v` (R59). -/
  | rgbRed (v : Byte)
  /-- Frame RGB_GREEN, register 0x03 := `v` (R59). -/
  | rgbGreen (v : Byte)
  /-- Frame RGB_BLUE, register 0x02 := `v` (R59). -/
  | rgbBlue (v : Byte)
  deriving DecidableEq, Repr

/-- The layer of the opcode table an instruction stands in; a frame's layer names its target device (R50 to R52). -/
inductive Layer where
  | host
  | lcdFrame
  | rgbFrame
  deriving DecidableEq, Repr

/-- The `layer` and `target` columns of spec/opcode_table.json. -/
def Instr.layer : Instr → Layer
  | .init | .clear | .setDisplay _ | .setCursor _ | .setBlink _ | .setCursorPosition _ _ | .writeChar _
  | .writeStr _ | .setRgb _ _ _ | .illegal _ => .host
  | .lcdClear | .lcdEntryMode | .lcdControl _ _ _ | .lcdFunctionSet | .lcdSetDdram _ | .lcdData _ => .lcdFrame
  | .rgbMode1 | .rgbLedout | .rgbMode2 | .rgbRed _ | .rgbGreen _ | .rgbBlue _ => .rgbFrame

end Sys2Proof
end

