-- ==== Sys2Proof/Machine/State.lean ====
section
/-! DEFINITION. The state of the block (spec/10_state.md R10), its ports' registers (R49), the inputs a step reads and
the record of events (R9); the reasons a step can stop. -/

namespace Sys2Proof.Machine

/-- `MODE` (R11): 0 is Uninitialized, 1 is Ready. -/
inductive Mode where
  | uninitialized
  | ready
  deriving DecidableEq, Repr

/-- The Bus's answer to one write (R30, R32). -/
inductive Answer where
  | ok
  | err (e : BusErr)
  deriving DecidableEq, Repr

/-- The status of an operation, with the one value it may carry (R130). -/
inductive Response where
  | ok
  | busError (e : BusErr)
  | invalidState
  | illegalCommand
  deriving DecidableEq, Repr

/-- One bus write: a 7-bit device address and exactly two bytes, `b0` first (R31, R42). -/
structure Frame where
  dev : DevAddr
  b0 : Byte
  b1 : Byte
  deriving DecidableEq, Repr

/-- How far the handshake of a bus or clock request has come (R49): its `valid` is 1, or the request has been transferred
and its answer is awaited. -/
inductive Phase where
  | offered
  | taken
  deriving DecidableEq, Repr

/-- What can stand at the block's ports: a bus request, a clock request, or a response (R49). -/
inductive Request where
  | write (f : Frame) (ph : Phase)
  | delay (ms : Millis) (ph : Phase)
  | response (r : Response)
  deriving DecidableEq, Repr

/-- The four kinds of event (R9). -/
inductive Event where
  /-- `Op(...)`: the host handed the block one complete operation. -/
  | op (i : Instr)
  /-- `W(dev, [b0, b1]) -> a`: one bus write and the Bus's answer. -/
  | write (f : Frame) (a : Answer)
  /-- `D(n)`: one delay, completed. -/
  | delay (ms : Millis)
  /-- `Rsp(...)`: the block's answer to an operation. -/
  | rsp (r : Response)
  deriving DecidableEq, Repr

/-- What the Bus or the Clock does at its two ports (R49). -/
inductive PortMove (α : Type) where
  /-- It takes the request that is offered. -/
  | ready
  /-- It gives the answer `x` to the request it has taken. -/
  | done (x : α)
  /-- It gives the answer `x` to a request that a reset has abandoned (R156). -/
  | late (x : α)
  deriving DecidableEq, Repr

/-- `bus_ready`, or `bus_done` with `bus_fail` and `bus_code` (R32, R49). -/
abbrev BusMove := PortMove Answer

/-- `dly_ready`, or `dly_done` (R44, R49). -/
abbrev ClockMove := PortMove Unit

/-- Everything the block's environment does between two resets, in order at each port. -/
structure Inputs where
  /-- The bytes the host hands over (R46, R162). -/
  bytes : List Byte
  /-- What the Bus does (R32). -/
  busMoves : List BusMove
  /-- What the Clock does (R44). -/
  clockMoves : List ClockMove
  /-- How many responses the host takes (R162). -/
  rspTakes : Nat
  deriving DecidableEq, Repr

/-- The whole state. -/
structure State where
  /-- `MODE` (R11). -/
  mode : Mode
  /-- `CTRL` (R12): bit 2 is D, bit 1 is C, bit 0 is B. -/
  ctrl : BitVec 3
  /-- `ADDR_LCD` (R13), constant. -/
  addrLcd : DevAddr
  /-- `ADDR_RGB` (R13), constant. -/
  addrRgb : DevAddr
  /-- `SHOW_FUNCTION` (R14), constant. -/
  showFunction : Byte
  /-- An operation has been accepted and its response not yet given (R15). -/
  busy : Bool
  /-- The accepted operation with its operands (R15). -/
  op : Instr
  /-- The index of the next micro-step (R15). -/
  upc : Nat
  /-- The index of the next byte of a WRITE_STR string (R15). -/
  sidx : Nat
  /-- The result of the clear-display write while the delay after it runs (R15). -/
  held : Answer
  /-- The bytes of a packet not yet complete (R15). -/
  pkt : List Byte
  /-- The one request that stands at a port (R16, R49; R162 for a response not yet taken). -/
  pend : Option Request
  /-- INPUT: the bytes the host will hand over before the next reset, in order. -/
  bytes : List Byte
  /-- INPUT: what the Bus will do before the next reset, in order. -/
  busMoves : List BusMove
  /-- INPUT: what the Clock will do before the next reset, in order. -/
  clockMoves : List ClockMove
  /-- INPUT: how many responses the host will take before the next reset. -/
  rspTakes : Nat
  /-- INPUT: the coming resets, in order, each with what the environment does after it (R155, R156). -/
  afterResets : List Inputs
  /-- RECORD: the events so far, oldest first (R9). -/
  trace : List Event
  deriving DecidableEq, Repr

/-- The machine right after reset (R21, R155). The constants hold their parameter values (`Config`); `op`, `upc`, `sidx`
and `held` are unspecified there and never read while idle (R15, R21): the values below are a DESIGN CHOICE (unsafe),
log entry 9. No input has arrived and no event has happened (log entries 2 and 4). -/
def State.reset : State where
  mode := .uninitialized
  ctrl := 0#3
  addrLcd := Config.addrLcd
  addrRgb := Config.addrRgb
  showFunction := Config.showFunction
  busy := false
  op := .init
  upc := 0
  sidx := 0
  held := .ok
  pkt := []
  pend := none
  bytes := []
  busMoves := []
  clockMoves := []
  rspTakes := 0
  afterResets := []
  trace := []

/-- Why the machine stops with a fault. No state that meets `State.Inv` (Safety.lean) raises one; a bus error is no
fault but an ordinary outcome (R148). -/
inductive Fault where
  /-- Raised by the running of an operation whose `upc` is outside its step table (R15: "it never leaves the table of the
  running operation"). Safe: it stops only where the spec gives no step. -/
  | sequencerLost
  /-- Raised by `step` when the write standing at the Bus port is none of the twelve kinds of frame (R65: the block never
  emits one). Safe: it stops only where the spec rules the state out. -/
  | strayFrame
  deriving DecidableEq, Repr

/-- Why an instruction has no meaning here. -/
inductive Refusal where
  /-- Raised by `exec`'s arm of an instruction that is not modelled yet, with its mnemonic. Safe: nothing is claimed of
  it. No arm raises it in this model. -/
  | notModelled (mnemonic : String)
  deriving DecidableEq, Repr

end Sys2Proof.Machine
end

