-- ==== Sys2Proof/Machine/Ops.lean ====
section
/-! DEFINITION. The shared operations: events, requests, the bus write, the delay, ending an operation with a status, the
response, accepting an operation, running its step table, reset.

An operation is a step table (R86, R100, R108, R120). A micro-step makes a register update and puts ONE request at a port
(R16); the environment answers the request; the answer is an event, and the table says what follows it. Where the
environment has not answered, the operation waits with its request standing (R35) and goes on in a later step. -/

namespace Sys2Proof.Machine

/-! ## Single updates of State -/

/-- An event happens (R9). -/
def State.emit (e : Event) (s : State) : State := { s with trace := s.trace ++ [e] }

/-- A request is put at its port (R16, R49). -/
def State.request (r : Request) (s : State) : State := { s with pend := some r }

/-- `CTRL <- v`. -/
def State.setCtrl (v : BitVec 3) (s : State) : State := { s with ctrl := v }

/-- `MODE <- m`. -/
def State.setMode (m : Mode) (s : State) : State := { s with mode := m }

/-- `upc <- upc + 1` (R15). -/
def State.nextUpc (s : State) : State := { s with upc := s.upc + 1 }

/-- `sidx <- sidx + 1` (R108). -/
def State.nextSidx (s : State) : State := { s with sidx := s.sidx + 1 }

/-- `held <- a` (R15). -/
def State.hold (a : Answer) (s : State) : State := { s with held := a }

/-! ## The Bus's and the Clock's moves -/

/-- The moves after the first `ready`. An answer before it answers nothing the block has asked and is ignored, and so is a
late one (R156; log entry 24). -/
def afterReady {α : Type} : List (PortMove α) → Option (List (PortMove α))
  | [] => none
  | .ready :: later => some later
  | .done _ :: later | .late _ :: later => afterReady later

/-- The first answer, and the moves after it. A `ready` before it finds no request and is no transfer (R49), and a late
answer is ignored (R156). -/
def firstDone {α : Type} : List (PortMove α) → Option (α × List (PortMove α))
  | [] => none
  | .done x :: later => some (x, later)
  | .ready :: later | .late _ :: later => firstDone later

/-- All the answers that successive requests will get, the first one being taken already or not. -/
def answersAhead {α : Type} (taken : Bool) : List (PortMove α) → List α
  | [] => []
  | .ready :: later => answersAhead true later
  | .done x :: later => if taken then x :: answersAhead false later else answersAhead false later
  | .late _ :: later => answersAhead taken later

/-- A write has been taken and is not answered. -/
def State.writeTaken (s : State) : Bool :=
  match s.pend with
  | some (.write _ .taken) => true
  | some (.write _ .offered) | some (.delay _ _) | some (.response _) | none => false

/-- A delay has been taken and is not over. -/
def State.delayTaken (s : State) : Bool :=
  match s.pend with
  | some (.delay _ .taken) => true
  | some (.delay _ .offered) | some (.write _ _) | some (.response _) | none => false

/-- The answers the block's writes will get, from the one that stands on (R32). -/
def State.busAnswers (s : State) : List Answer := answersAhead s.writeTaken s.busMoves

/-- How many of the block's delays will be reported over, from the one that stands on (R44). -/
def State.delayEnds (s : State) : Nat := (answersAhead s.delayTaken s.clockMoves).length

/-! ## Requests -/

/-- `MemWrite(dev, 2, [b0, b1])` is requested (R31). -/
def sendFrame (f : Frame) (s : State) : State := s.request (.write f .offered)

/-- `DelayMs(n)` is requested (R44). -/
def delayMs (n : Millis) (s : State) : State := s.request (.delay n .offered)

/-- `raise`: the operation ends now with a status; no later write or delay of it is issued (R8, R131 to R133). This is the
block's one way of taking an exception: it saves nothing but the value the status carries (R136, R139). The response
stands at the port until the host takes it (R162). -/
def raise (r : Response) (s : State) : State := s.request (.response r)

/-- The way back from every status, OK or not: the response is given, and the block is idle and accepts the next
operation under the same rules as ever (R46, R141). -/
def giveResponse (r : Response) (s : State) : State :=
  { s with pend := none, busy := false, trace := s.trace ++ [.rsp r] }

/-- The Bus or the Clock takes the request that stands at its port, if it is ready (R49); nothing happens else. -/
def takeRequest (s : State) : State :=
  match s.pend with
  | some (.write f .offered) =>
    match afterReady s.busMoves with
    | some later => { s with pend := some (.write f .taken), busMoves := later }
    | none => s
  | some (.delay n .offered) =>
    match afterReady s.clockMoves with
    | some later => { s with pend := some (.delay n .taken), clockMoves := later }
    | none => s
  | some (.write _ .taken) | some (.delay _ .taken) | some (.response _) | none => s

/-- The Bus answers the write it has taken: the write is an event with its answer, and the port is free. -/
def answerWrite (f : Frame) (a : Answer) (later : List BusMove) (s : State) : State :=
  { s with pend := none, busMoves := later, trace := s.trace ++ [.write f a] }

/-- The Clock reports the delay over (R44). -/
def endDelay (n : Millis) (later : List ClockMove) (s : State) : State :=
  { s with pend := none, clockMoves := later, trace := s.trace ++ [.delay n] }

/-! ## Step tables -/

/-- The step table of an operation. -/
structure Table where
  /-- The micro-step at `upc`: its register update and its request; none where `upc` is outside the table. -/
  issue : State → Option State
  /-- What follows the answer to a write of the table (its last column). -/
  answered : Answer → State → State
  /-- What follows a delay of the table. -/
  delayOver : State → State

/-- `try`: on `Ok` the next micro-step, on `Err(e)` BUS_ERROR with `e` (R8, R131). -/
def tryAnswer (a : Answer) (s : State) : State :=
  match a with
  | .ok => s.nextUpc
  | .err e => raise (.busError e) s

/-- How far one micro-step came. -/
inductive Progress where
  /-- A request stands and is not answered. -/
  | waits (s : State)
  /-- The operation has a next micro-step, or a response to give. -/
  | goesOn (s : State)
  /-- The response has been given. -/
  | ended (s : State)

/-- The environment's moves on the request that stands: it is taken, then answered (R49). -/
def settle (t : Table) (s : State) : Progress :=
  let s1 := takeRequest s
  match s1.pend with
  | some (.write f .taken) =>
    match firstDone s1.busMoves with
    | some (a, later) => .goesOn (t.answered a (answerWrite f a later s1))
    | none => .waits s1
  | some (.delay n .taken) =>
    match firstDone s1.clockMoves with
    | some (_, later) => .goesOn (t.delayOver (endDelay n later s1))
    | none => .waits s1
  | some (.response r) =>
    match s1.rspTakes with
    | later + 1 => .ended (giveResponse r { s1 with rspTakes := later })
    | 0 => .waits s1
  | some (.write _ .offered) | some (.delay _ .offered) | none => .waits s1

/-- Puts the request of the micro-step at `upc`, unless a request stands already. -/
def issueIfFree (t : Table) (s : State) : Option State :=
  match s.pend with
  | none => t.issue s
  | some _ => some s

/-- Runs at most `n` micro-steps, until the response is given or the environment has to answer. -/
def run (t : Table) : Nat → State → Host.Outcome State Fault Refusal
  | 0, s => .next s
  | n + 1, s =>
    match issueIfFree t s with
    | none => .fault .sequencerLost
    | some s1 =>
      match settle t s1 with
      | .waits s2 => .next s2
      | .ended s2 => .next s2
      | .goesOn s2 => run t n s2

/-! ## Accepting an operation -/

/-- The packet is accepted as a unit: `busy <- 1`, `upc <- 0`, and the operation is latched (R15, R46, R60); for WRITE_STR
`sidx <- 0` (R108). That every other packet zeroes `sidx` too, and an illegal byte `upc`, is a DESIGN CHOICE (unsafe), log
entry 27. -/
def latch (i : Instr) (s : State) : State := { s with busy := true, op := i, upc := 0, sidx := 0 }

/-- An operation is accepted: the event `Op`, then the mode check before any other event (R110, R132, R138). -/
def accept (required : Mode) (i : Instr) (s : State) : State :=
  let s1 := (latch i s).emit (.op i)
  if s.mode = required then s1 else raise .invalidState s1

/-- An illegal byte is taken: no operation, so no event `Op` (R133; DEDUCED, log entry 11); its one response is
ILLEGAL_COMMAND in either mode (R138). -/
def acceptIllegal (i : Instr) (s : State) : State := raise .illegalCommand (latch i s)

/-- The whole of an operation, from its acceptance to its response, as far as the environment answers. While it runs, the
same operation is taken up where it stands; another one, or one offered while a frame stands at the port with no
operation running, waits (R46; log entry 12). `bound` is R148's number of micro-steps. -/
def operate (i : Instr) (accepted : State → State) (t : Table) (bound : Nat) (s : State) :
    Host.Outcome State Fault Refusal :=
  if s.busy then (if s.op = i then run t bound s else .next s)
  else if s.pend.isSome then .next s
  else run t bound (accepted s)

/-! ## Waiting, and reset -/

/-- The environment does nothing more, before the next reset, to the request that stands (R35, R162). -/
def State.waits (s : State) : Bool :=
  match s.pend with
  | none => false
  | some (.write _ .offered) => (afterReady s.busMoves).isNone
  | some (.write _ .taken) => (firstDone s.busMoves).isNone
  | some (.delay _ .offered) => (afterReady s.clockMoves).isNone
  | some (.delay _ .taken) => (firstDone s.clockMoves).isNone
  | some (.response _) => s.rspTakes == 0

/-- Nothing more can happen before the next reset: the standing request gets no further, or the idle block gets no byte.
(The second line is for states the invariant rules out: a delay or a response without an operation.) -/
def State.stalled (s : State) : Bool :=
  match s.pend with
  | none => !s.busy && s.bytes.isEmpty
  | some (.delay _ _) | some (.response _) => !s.busy || s.waits
  | some (.write _ _) => s.waits

/-- The next thing that happens is a reset: everything the environment does before it is done (log entry 10). -/
def State.resetComes (s : State) : Bool := s.stalled && !s.afterResets.isEmpty

/-- Reset (R21, R155, R156), with `i` after it and then `later`: MODE, CTRL, `busy` and `pkt` as R21 says; whatever stood at
a port is abandoned, without an event; the constants are not touched. `op`, `upc`, `sidx` and `held` are unspecified there
and keep what they held (DESIGN CHOICE, log entry 9). -/
def applyReset (i : Inputs) (later : List Inputs) (s : State) : State :=
  { s with
    mode := .uninitialized, ctrl := 0#3, busy := false, pkt := [], pend := none,
    bytes := i.bytes, busMoves := i.busMoves, clockMoves := i.clockMoves, rspTakes := i.rspTakes,
    afterResets := later }

end Sys2Proof.Machine
end

