-- ==== Sys2Proof/Machine/Flags.lean ====
section
/-! DEFINITION. The ControlRegister (spec/40_control_register.md): the three flags of CTRL and the control byte. -/

namespace Sys2Proof.Machine

/-- The three flags (R12, R75). -/
inductive Flag where
  | displayOn
  | cursorOn
  | blinkOn
  deriving DecidableEq, Repr

/-- `m(f)`, the 3-bit mask of a flag (40_control_register.md, before R75). -/
def flagMask (f : Flag) : BitVec 3 :=
  match f with
  | .displayOn => 0b100#3
  | .cursorOn => 0b010#3
  | .blinkOn => 0b001#3

/-- CR_VALUE, the control byte `CTRL_VALUE = 0x08 | zext_8(CTRL)` (R18, R55, R77). -/
def crValue (ctrl : BitVec 3) : Byte := 0x08#8 ||| ctrl.setWidth 8

/-- CR_SET's update of CTRL (R75). -/
def crSet (f : Flag) (ctrl : BitVec 3) : BitVec 3 := ctrl ||| flagMask f

/-- CR_CLEAR's update of CTRL, the complement taken on 3 bits (R76). -/
def crClear (f : Flag) (ctrl : BitVec 3) : BitVec 3 := ctrl &&& ~~~flagMask f

/-- `if n = 1 then CR_SET(f) else CR_CLEAR(f)` (R105). -/
def crUpdate (f : Flag) (n : Bool) (ctrl : BitVec 3) : BitVec 3 := if n then crSet f ctrl else crClear f ctrl

end Sys2Proof.Machine
end

