-- ==== Sys2Proof/Machine/Operands.lean ====
section
/-! DEFINITION. The three frame forms (R36 to R38), the command bytes (R53 to R58), the backlight registers (R41). -/

namespace Sys2Proof.Machine

/-- `CMD(b)`: an instruction byte to the display controller (R36, R50). -/
def cmd (b : Byte) (s : State) : Frame := ⟨s.addrLcd, 0x80#8, b⟩

/-- `DATA(b)`: a character code to the display controller (R37, R51). -/
def data (b : Byte) (s : State) : Frame := ⟨s.addrLcd, 0x40#8, b⟩

/-- `REG(r, v)`: a value to a register of the backlight chip (R38, R52). -/
def reg (r v : Byte) (s : State) : Frame := ⟨s.addrRgb, r, v⟩

/-- The clear byte (R58). -/
def clearByte : Byte := 0x01#8

/-- The entry-mode byte: marker, entry-left, no-shift (R57). -/
def entryModeByte : Byte := 0x04#8 ||| 0x02#8 ||| 0x00#8

/-- The function-set byte (R54). -/
def functionSetByte (s : State) : Byte := 0x20#8 ||| s.showFunction

/-- The cursor-address byte: an OR of the whole column, not an addition (R56, R101). -/
def cursorByte (col : Byte) (w : Bool) : Byte := if w then col ||| 0xC0#8 else col ||| 0x80#8

/-- A set-DDRAM-address command from its 7 address bits (R53, R56). -/
def setDdramByte (a : BitVec 7) : Byte := 0x80#8 ||| a.setWidth 8

/-- CTRL's three bits from its flags (R12). -/
def ctrlOf (d c b : Bool) : BitVec 3 := BitVec.ofBool d ++ BitVec.ofBool c ++ BitVec.ofBool b

/-- The register numbers of the backlight chip (R41). -/
def regMode1 : Byte := 0x00#8
def regMode2 : Byte := 0x01#8
def regBlue : Byte := 0x02#8
def regGreen : Byte := 0x03#8
def regRed : Byte := 0x04#8
def regOutput : Byte := 0x08#8

/-- The values INIT writes to three of them (R41). -/
def mode1Value : Byte := 0x00#8
def outputValue : Byte := 0xFF#8
def mode2Value : Byte := 0x20#8

end Sys2Proof.Machine
end

