-- ==== Sys2Proof/Machine/Backlight.lean ====
section
/-! DEFINITION. SET_RGB (spec/43_backlight_ops.md). -/

namespace Sys2Proof.Machine

/-- SET_RGB's rows, red then green then blue (R120). -/
def setRgbIssue (r g b : Byte) (s : State) : Option State :=
  match s.upc with
  | 0 => some (sendFrame (reg regRed r s) s)
  | 1 => some (sendFrame (reg regGreen g s) s)
  | 2 => some (sendFrame (reg regBlue b s) s)
  | 3 => some (raise .ok s)
  | _ => none

/-- SET_RGB's step table (R120). -/
def setRgbTable (r g b : Byte) : Table := ⟨setRgbIssue r g b, tryAnswer, State.nextUpc⟩

/-- SET_RGB (R120). -/
def execSetRgb (r g b : Byte) (s : State) : Host.Outcome State Fault Refusal :=
  operate (.setRgb r g b) (accept .ready (.setRgb r g b)) (setRgbTable r g b) 4 s

end Sys2Proof.Machine
end

