-- ==== Sys2Proof/Machine/Display.lean ====
section
/-! DEFINITION. The display operations (spec/42_display_ops.md), each admitted only while Ready (R110). -/

namespace Sys2Proof.Machine

/-- The table of an operation of one write: `upc` 0 updates and sends, `upc` 1 responds OK (R101, R105, R106, R148). -/
def oneWriteTable (update : State → State) (frame : State → Frame) : Table where
  issue s :=
    match s.upc with
    | 0 => some (sendFrame (frame (update s)) (update s))
    | 1 => some (raise .ok s)
    | _ => none
  answered := tryAnswer
  delayOver := State.nextUpc

/-! ## CLEAR -/

/-- CLEAR's rows (R100). -/
def clearIssue (s : State) : Option State :=
  match s.upc with
  | 0 => some (sendFrame (cmd clearByte s) s)
  | 1 => some (delayMs Config.tClear s)
  | 2 =>
    match s.held with
    | .ok => some (raise .ok s)
    | .err e => some (raise (.busError e) s)
  | _ => none

/-- The answer of the clear write is held: the delay runs in both outcomes (R100). -/
def clearAnswered (a : Answer) (s : State) : State := (s.hold a).nextUpc

/-- CLEAR's step table (R100). -/
def clearTable : Table := ⟨clearIssue, clearAnswered, State.nextUpc⟩

/-- CLEAR (R100). -/
def execClear (s : State) : Host.Outcome State Fault Refusal :=
  operate .clear (accept .ready .clear) clearTable 3 s

/-! ## SET_CURSOR_POSITION -/

/-- SET_CURSOR_POSITION's step table (R101). -/
def setCursorPositionTable (col : Byte) (w : Bool) : Table := oneWriteTable id (cmd (cursorByte col w))

/-- SET_CURSOR_POSITION (R101). -/
def execSetCursorPosition (col : Byte) (w : Bool) (s : State) : Host.Outcome State Fault Refusal :=
  operate (.setCursorPosition col w) (accept .ready (.setCursorPosition col w)) (setCursorPositionTable col w) 2 s

/-! ## SET_DISPLAY, SET_CURSOR, SET_BLINK -/

/-- The shape of the three flag operations (R105): CTRL first, then the complete control byte, always; no rollback
(R79). -/
def flagTable (f : Flag) (n : Bool) : Table :=
  oneWriteTable (fun s => s.setCtrl (crUpdate f n s.ctrl)) (fun s => cmd (crValue s.ctrl) s)

/-- SET_DISPLAY (R102). -/
def execSetDisplay (n : Bool) (s : State) : Host.Outcome State Fault Refusal :=
  operate (.setDisplay n) (accept .ready (.setDisplay n)) (flagTable .displayOn n) 2 s

/-- SET_CURSOR (R103). -/
def execSetCursor (n : Bool) (s : State) : Host.Outcome State Fault Refusal :=
  operate (.setCursor n) (accept .ready (.setCursor n)) (flagTable .cursorOn n) 2 s

/-- SET_BLINK (R104). -/
def execSetBlink (n : Bool) (s : State) : Host.Outcome State Fault Refusal :=
  operate (.setBlink n) (accept .ready (.setBlink n)) (flagTable .blinkOn n) 2 s

/-! ## WRITE_CHAR, WRITE_STR -/

/-- WRITE_CHAR's step table (R106); the code is sent unchanged (R107). -/
def writeCharTable (c : Byte) : Table := oneWriteTable id (data c)

/-- WRITE_CHAR (R106). -/
def execWriteChar (c : Byte) (s : State) : Host.Outcome State Fault Refusal :=
  operate (.writeChar c) (accept .ready (.writeChar c)) (writeCharTable c) 2 s

/-- WRITE_STR's one micro-step (R108): the byte at `sidx`, or OK when there is none left. -/
def writeStrIssue (str : List Byte) (s : State) : Option State :=
  match s.upc with
  | 0 =>
    match str[s.sidx]? with
    | some c => some (sendFrame (data c s) s)
    | none => some (raise .ok s)
  | _ => none

/-- `upc` 0 again for the next byte; the first failing write ends the operation (R108). -/
def writeStrAnswered (a : Answer) (s : State) : State :=
  match a with
  | .ok => s.nextSidx
  | .err e => raise (.busError e) s

/-- WRITE_STR's step table (R108). -/
def writeStrTable (str : List Byte) : Table := ⟨writeStrIssue str, writeStrAnswered, State.nextUpc⟩

/-- WRITE_STR (R108): `len` + 1 micro-steps (R148). -/
def execWriteStr (str : List Byte) (s : State) : Host.Outcome State Fault Refusal :=
  operate (.writeStr str) (accept .ready (.writeStr str)) (writeStrTable str) (str.length + 1) s

end Sys2Proof.Machine
end

