-- ==== Sys2Proof/Machine/Init.lean ====
section
/-! DEFINITION. INIT (spec/41_init_sequence.md). -/

namespace Sys2Proof.Machine

/-- The rows of R86: register update and request. -/
def initIssue (s : State) : Option State :=
  match s.upc with
  | 0 => some (delayMs Config.tPowerOn (s.setCtrl 0#3))
  | 1 => some (sendFrame (cmd (functionSetByte s) s) s)
  | 2 => some (delayMs Config.tFset s)
  | 3 => some (sendFrame (cmd (functionSetByte s) s) s)
  | 4 => some (delayMs Config.tFset s)
  | 5 => some (sendFrame (cmd (functionSetByte s) s) s)
  | 6 =>
    let s1 := s.setCtrl (crSet .displayOn s.ctrl)
    some (sendFrame (cmd (crValue s1.ctrl) s1) s1)
  | 7 => some (sendFrame (cmd clearByte s) s)
  | 8 => some (delayMs Config.tClear s)
  | 9 => some (sendFrame (cmd entryModeByte s) s)
  | 10 => some (sendFrame (reg regMode1 mode1Value s) s)
  | 11 => some (sendFrame (reg regOutput outputValue s) s)
  | 12 => some (sendFrame (reg regMode2 mode2Value s) s)
  | 13 => some (raise .ok (s.setMode .ready))
  | _ => none

/-- R86's last column: the clear write at `upc` 7 is held until its delay is over; any other failed write aborts at
once (R88). -/
def initAnswered (a : Answer) (s : State) : State :=
  if s.upc = 7 then (s.hold a).nextUpc else tryAnswer a s

/-- After the 2 ms of `upc` 8 INIT goes on or aborts by what the clear write answered (R86, R88); the other delays are
followed by the next micro-step. -/
def initDelayOver (s : State) : State :=
  if s.upc = 8 then tryAnswer s.held s else s.nextUpc

/-- INIT's step table (R86). -/
def initTable : Table := ⟨initIssue, initAnswered, initDelayOver⟩

/-- INIT: admitted only while Uninitialized (R85); at most 14 micro-steps (R148). -/
def execInit (s : State) : Host.Outcome State Fault Refusal :=
  operate .init (accept .uninitialized .init) initTable 14 s

end Sys2Proof.Machine
end

