-- ==== Sys2Proof/Machine/Sequencer.lean ====
section
/-! DEFINITION. The illegal byte, which step table an operation has, and which mode admits it (R140). -/

namespace Sys2Proof.Machine

/-- The table of an illegal byte: nothing but the response (R64, R133). -/
def illegalTable : Table := ⟨fun s => some (raise .illegalCommand s), tryAnswer, State.nextUpc⟩

/-- (illegal): one byte taken, no event of an operation, no change of MODE or CTRL in either mode, response
ILLEGAL_COMMAND (R64, R133, R138). -/
def execIllegal (byte0 : Byte) (s : State) : Host.Outcome State Fault Refusal :=
  operate (.illegal byte0) (acceptIllegal (.illegal byte0)) illegalTable 1 s

/-- The step table of the operation a packet spells; a frame is no operation and has none. -/
def tableOf : Instr → Option Table
  | .init => some initTable
  | .clear => some clearTable
  | .setDisplay n => some (flagTable .displayOn n)
  | .setCursor n => some (flagTable .cursorOn n)
  | .setBlink n => some (flagTable .blinkOn n)
  | .setCursorPosition col w => some (setCursorPositionTable col w)
  | .writeChar c => some (writeCharTable c)
  | .writeStr str => some (writeStrTable str)
  | .setRgb r g b => some (setRgbTable r g b)
  | .illegal _ => some illegalTable
  | .lcdClear | .lcdEntryMode | .lcdControl _ _ _ | .lcdFunctionSet | .lcdSetDdram _ | .lcdData _ => none
  | .rgbMode1 | .rgbLedout | .rgbMode2 | .rgbRed _ | .rgbGreen _ | .rgbBlue _ => none

/-- The mode that admits an operation (R140); none for an illegal byte and for a frame, which no mode check concerns. -/
def requiredMode : Instr → Option Mode
  | .init => some .uninitialized
  | .clear | .setDisplay _ | .setCursor _ | .setBlink _ | .setCursorPosition _ _ | .writeChar _ | .writeStr _
  | .setRgb _ _ _ => some .ready
  | .illegal _ => none
  | .lcdClear | .lcdEntryMode | .lcdControl _ _ _ | .lcdFunctionSet | .lcdSetDdram _ | .lcdData _ => none
  | .rgbMode1 | .rgbLedout | .rgbMode2 | .rgbRed _ | .rgbGreen _ | .rgbBlue _ => none

end Sys2Proof.Machine
end

