-- ==== Sys2Proof/Machine/Frames.lean ====
section
/-! DEFINITION. The frame layer: each frame kind of R50 to R59 is one bus write (R31). -/

namespace Sys2Proof.Machine

/-- What the running operation does with the answer to its write (its table's last column); nothing where no operation
runs. -/
def react (a : Answer) (s : State) : State :=
  if s.busy then
    match tableOf s.op with
    | some t => t.answered a s
    | none => s
  else s

/-- The write that stands at the Bus port is that of `f`. -/
def standsAs (f : Frame) (s : State) : Bool :=
  match s.pend with
  | some (.write g _) => f == g
  | some (.delay _ _) | some (.response _) | none => false

/-- The Bus's moves on the frame `f` that stands at its port: taken, then answered (R31, R32). The write is an event, and
the running operation goes on by its table. With no answer there the request stands (R35). -/
def answerFrame (f : Frame) (s : State) : State :=
  let s1 := takeRequest s
  if s1.writeTaken then
    match firstDone s1.busMoves with
    | some (a, later) => react a (answerWrite f a later s1)
    | none => s1
  else s1

/-- One frame on the Bus. It is put there only where it stands at the port already, or where the port is free and no
operation runs; else it waits, since the block never has two requests outstanding (R16; log entry 13). -/
def transact (f : Frame) (s : State) : State :=
  if standsAs f s then answerFrame f s
  else if s.pend.isNone && !s.busy then answerFrame f (sendFrame f s)
  else s

/-- LCD_CLEAR (R58). -/
def execLcdClear (s : State) : Host.Outcome State Fault Refusal := .next (transact (cmd clearByte s) s)

/-- LCD_ENTRY_MODE (R57). -/
def execLcdEntryMode (s : State) : Host.Outcome State Fault Refusal := .next (transact (cmd entryModeByte s) s)

/-- LCD_CONTROL (R55): the byte of three flags; the frame itself touches no CTRL. -/
def execLcdControl (d c b : Bool) (s : State) : Host.Outcome State Fault Refusal :=
  .next (transact (cmd (crValue (ctrlOf d c b)) s) s)

/-- LCD_FUNCTION_SET (R54). -/
def execLcdFunctionSet (s : State) : Host.Outcome State Fault Refusal :=
  .next (transact (cmd (functionSetByte s) s) s)

/-- LCD_SET_DDRAM (R56). -/
def execLcdSetDdram (a : BitVec 7) (s : State) : Host.Outcome State Fault Refusal :=
  .next (transact (cmd (setDdramByte a) s) s)

/-- LCD_DATA (R51). -/
def execLcdData (c : Byte) (s : State) : Host.Outcome State Fault Refusal := .next (transact (data c s) s)

/-- RGB_MODE1 (R59). -/
def execRgbMode1 (s : State) : Host.Outcome State Fault Refusal := .next (transact (reg regMode1 mode1Value s) s)

/-- RGB_LEDOUT (R59). -/
def execRgbLedout (s : State) : Host.Outcome State Fault Refusal := .next (transact (reg regOutput outputValue s) s)

/-- RGB_MODE2 (R59). -/
def execRgbMode2 (s : State) : Host.Outcome State Fault Refusal := .next (transact (reg regMode2 mode2Value s) s)

/-- RGB_RED (R59). -/
def execRgbRed (v : Byte) (s : State) : Host.Outcome State Fault Refusal := .next (transact (reg regRed v s) s)

/-- RGB_GREEN (R59). -/
def execRgbGreen (v : Byte) (s : State) : Host.Outcome State Fault Refusal := .next (transact (reg regGreen v s) s)

/-- RGB_BLUE (R59). -/
def execRgbBlue (v : Byte) (s : State) : Host.Outcome State Fault Refusal := .next (transact (reg regBlue v s) s)

end Sys2Proof.Machine
end

