-- ==== Sys2Proof/Machine/Dispatch.lean ====
section
/-! DEFINITION. One arm per instruction. -/

namespace Sys2Proof.Machine

def exec (i : Instr) (s : State) : Host.Outcome State Fault Refusal :=
  match i with
  | .init => Sys2Proof.Machine.execInit s
  | .clear => Sys2Proof.Machine.execClear s
  | .setDisplay n => Sys2Proof.Machine.execSetDisplay n s
  | .setCursor n => Sys2Proof.Machine.execSetCursor n s
  | .setBlink n => Sys2Proof.Machine.execSetBlink n s
  | .setCursorPosition col w => Sys2Proof.Machine.execSetCursorPosition col w s
  | .writeChar c => Sys2Proof.Machine.execWriteChar c s
  | .writeStr str => Sys2Proof.Machine.execWriteStr str s
  | .setRgb r g b => Sys2Proof.Machine.execSetRgb r g b s
  | .illegal byte0 => Sys2Proof.Machine.execIllegal byte0 s
  | .lcdClear => Sys2Proof.Machine.execLcdClear s
  | .lcdEntryMode => Sys2Proof.Machine.execLcdEntryMode s
  | .lcdControl d c b => Sys2Proof.Machine.execLcdControl d c b s
  | .lcdFunctionSet => Sys2Proof.Machine.execLcdFunctionSet s
  | .lcdSetDdram a => Sys2Proof.Machine.execLcdSetDdram a s
  | .lcdData c => Sys2Proof.Machine.execLcdData c s
  | .rgbMode1 => Sys2Proof.Machine.execRgbMode1 s
  | .rgbLedout => Sys2Proof.Machine.execRgbLedout s
  | .rgbMode2 => Sys2Proof.Machine.execRgbMode2 s
  | .rgbRed v => Sys2Proof.Machine.execRgbRed v s
  | .rgbGreen v => Sys2Proof.Machine.execRgbGreen v s
  | .rgbBlue v => Sys2Proof.Machine.execRgbBlue v s

end Sys2Proof.Machine
end

