-- ==== Sys2Proof/WellFormed.lean ====
section
/-! DEFINITION. Which terms of `Instr` the encodings can spell. Operand widths are in the types (R62, R63), so only two
checks are left: a string has at most 255 bytes (R60, R63, D13), and an illegal byte is none of the opcodes of R61. -/

namespace Sys2Proof

/-- The values of byte 0 that R64 calls illegal, written from R64's own list of ranges (the opcode map of
Decode.lean is written from R61's table; that the two agree is a statement). -/
def illegalByte0 (b : Byte) : Bool :=
  b.toNat == 0x00 || (0x03 ≤ b.toNat && b.toNat ≤ 0x0F) || (0x16 ≤ b.toNat && b.toNat ≤ 0x1F) ||
  (0x22 ≤ b.toNat && b.toNat ≤ 0x2F) || (0x32 ≤ b.toNat && b.toNat ≤ 0x3F) || 0x41 ≤ b.toNat

/-- Well-formedness of an instruction. -/
def Instr.wf : Instr → Bool
  | .writeStr str => str.length ≤ 255
  | .illegal byte0 => illegalByte0 byte0
  | .init | .clear | .setDisplay _ | .setCursor _ | .setBlink _ | .setCursorPosition _ _ | .writeChar _
  | .setRgb _ _ _ => true
  | .lcdClear | .lcdEntryMode | .lcdControl _ _ _ | .lcdFunctionSet | .lcdSetDdram _ | .lcdData _ => true
  | .rgbMode1 | .rgbLedout | .rgbMode2 | .rgbRed _ | .rgbGreen _ | .rgbBlue _ => true

end Sys2Proof
end

