-- ==== Sys2Proof/Decode.lean ====
section
/-! DEFINITION. Decoding, then encoding. The host layer reads packets from a list of bytes (R60 to R64); the frame layer
reads the two bytes of a frame to a known target (R50 to R59). Both are total. -/

namespace Sys2Proof

/-! ## The host layer -/

/-- The nine opcodes of R61. -/
inductive OpKind where
  | init | clear | setDisplay | setCursor | setBlink | setCursorPosition | writeChar | writeStr | setRgb
  deriving DecidableEq, Repr

/-- A row of the opcode map: byte 0 matches when its bits under `mask` are those of `pattern`. -/
structure OpRow where
  kind : OpKind
  mask : Byte
  pattern : Byte
  deriving DecidableEq, Repr

/-- The opcode map of R61, in its order. Every byte 0 that no row matches is illegal (R64). -/
def opcodeMap : List OpRow :=
  [ ⟨.init, 0xFF#8, 0x01#8⟩, ⟨.clear, 0xFF#8, 0x02#8⟩,
    ⟨.setDisplay, 0xFE#8, 0x10#8⟩, ⟨.setCursor, 0xFE#8, 0x12#8⟩, ⟨.setBlink, 0xFE#8, 0x14#8⟩,
    ⟨.setCursorPosition, 0xFE#8, 0x20#8⟩,
    ⟨.writeChar, 0xFF#8, 0x30#8⟩, ⟨.writeStr, 0xFF#8, 0x31#8⟩, ⟨.setRgb, 0xFF#8, 0x40#8⟩ ]

/-- Does byte 0 match the row? -/
def OpRow.hits (r : OpRow) (b : Byte) : Bool := b &&& r.mask == r.pattern

/-- Byte 0 decides the operation (R61); none for an illegal byte (R64). -/
def opKindOf (b : Byte) : Option OpKind := (opcodeMap.find? (·.hits b)).map (·.kind)

/-- Why a list of bytes does not begin with a whole packet. Neither is an error of the block: it waits for the missing
bytes (R162, D23). -/
inductive DecodeError where
  /-- There is no byte at all. -/
  | empty
  /-- The packet that `opcode` opens has `need` bytes, and only `have` are there. -/
  | truncated (opcode : Byte) (got need : Nat)
  deriving DecidableEq, Repr

/-- `n` and `w` are bit 0 of byte 0 (R62). -/
def lowBit (b : Byte) : Bool := b.getLsbD 0

/-- Reads one packet and gives what follows it (R60 to R63). Format S takes `len` string bytes after byte 1, whatever
their values. Every byte 0 outside R61 is a whole packet of one byte (R64). -/
def decode : List Byte → Except DecodeError (Instr × List Byte)
  | [] => .error .empty
  | b :: rest =>
    match opKindOf b with
    | none => .ok (.illegal b, rest)
    | some .init => .ok (.init, rest)
    | some .clear => .ok (.clear, rest)
    | some .setDisplay => .ok (.setDisplay (lowBit b), rest)
    | some .setCursor => .ok (.setCursor (lowBit b), rest)
    | some .setBlink => .ok (.setBlink (lowBit b), rest)
    | some .setCursorPosition =>
      match rest with
      | col :: rest => .ok (.setCursorPosition col (lowBit b), rest)
      | [] => .error (.truncated b 1 2)
    | some .writeChar =>
      match rest with
      | c :: rest => .ok (.writeChar c, rest)
      | [] => .error (.truncated b 1 2)
    | some .writeStr =>
      match rest with
      | len :: rest =>
        if len.toNat ≤ rest.length then .ok (.writeStr (rest.take len.toNat), rest.drop len.toNat)
        else .error (.truncated b (2 + rest.length) (2 + len.toNat))
      | [] => .error (.truncated b 1 2)
    | some .setRgb =>
      match rest with
      | r :: g :: bl :: rest => .ok (.setRgb r g bl, rest)
      | short => .error (.truncated b (1 + short.length) 4)

/-! ## The frame layer -/

/-- A frame to `ADDR_LCD` (R50, R51, R53), given SHOW_FUNCTION (R54); none for bytes the block never sends there (R65).
The five sets of command bytes do not overlap (R53). -/
def decodeLcdFrame (showFunction b0 b1 : Byte) : Option Instr :=
  if b0 = 0x40#8 then some (.lcdData b1)
  else if b0 = 0x80#8 then
    if b1 = 0x01#8 then some .lcdClear
    else if b1 = 0x06#8 then some .lcdEntryMode
    else if b1 &&& 0xF8#8 = 0x08#8 then some (.lcdControl (b1.getLsbD 2) (b1.getLsbD 1) (b1.getLsbD 0))
    else if b1 = 0x20#8 ||| showFunction then some .lcdFunctionSet
    else if b1 &&& 0x80#8 = 0x80#8 then some (.lcdSetDdram (b1.extractLsb' 0 7))
    else none
  else none

/-- A frame to `ADDR_RGB` (R52, R59); none for bytes the block never sends there (R65). -/
def decodeRgbFrame (b0 b1 : Byte) : Option Instr :=
  if b0 = 0x00#8 then (if b1 = 0x00#8 then some .rgbMode1 else none)
  else if b0 = 0x08#8 then (if b1 = 0xFF#8 then some .rgbLedout else none)
  else if b0 = 0x01#8 then (if b1 = 0x20#8 then some .rgbMode2 else none)
  else if b0 = 0x04#8 then some (.rgbRed b1)
  else if b0 = 0x03#8 then some (.rgbGreen b1)
  else if b0 = 0x02#8 then some (.rgbBlue b1)
  else none

/-! ## The opcode table's words -/

/-- Byte `k` of a word, byte 0 in bits 7..0. -/
def wordByte (w k : Nat) : Byte := BitVec.ofNat 8 (w >>> (8 * k))

/-- The first `n` bytes of a word, byte 0 first: how the host hands a packet over. -/
def wordBytes (w n : Nat) : List Byte := (List.range n).map (wordByte w)

/-- The packet bytes of a table word: its own `nbits`, then operand bytes of zeros, as many as the longest packet its
first two bytes can open (4, or 2 + `len` with `len` in byte 1: R60, R63). -/
def tablePacket (nbits w : Nat) : List Byte :=
  wordBytes (w % 2 ^ nbits) (nbits / 8) ++ List.replicate (4 + (wordByte (w % 2 ^ nbits) 1).toNat) 0x00#8

/-- The frame a 16-bit table word spells. The table numbers a frame `{b0, b1}` with `b0`, sent first, in bits 15..8. The
selector bytes and the register numbers have no value in common (R40, R41), so the target follows from `b0`. -/
def decodeTableFrame (w : Nat) : Option Instr :=
  (decodeLcdFrame Config.showFunction (wordByte w 1) (wordByte w 0)).or
    (decodeRgbFrame (wordByte w 1) (wordByte w 0))

/-- The instruction a word of spec/opcode_table.json stands for, numbered as the table numbers it. The table has two
layers (log entry 15): a frame row is 16 bits with `b0` in bits 15..8; a host row is numbered from byte 0 of the packet
in bits 7..0. A 16-bit word is read as a frame where it spells one, else as the first two bytes of a packet. -/
def decodeTableWord (nbits w : Nat) : Option Instr :=
  let asPacket := (decode (tablePacket nbits w)).toOption.map (·.1)
  if nbits = 16 then (decodeTableFrame (w % 2 ^ 16)).or asPacket else asPacket

/-! ## Encoding -/

/-- A bit as a byte of weight 1. -/
def bitByte (n : Bool) : Byte := if n then 0x01#8 else 0x00#8

/-- The bytes of an instruction, written from R60 to R63 (packets) and R50 to R59 (frames, `b0` first; the table's
LCD_FUNCTION_SET is the one of SHOW_FUNCTION = 0x08). -/
def encode : Instr → List Byte
  | .init => [0x01#8]
  | .clear => [0x02#8]
  | .setDisplay n => [0x10#8 ||| bitByte n]
  | .setCursor n => [0x12#8 ||| bitByte n]
  | .setBlink n => [0x14#8 ||| bitByte n]
  | .setCursorPosition col w => [0x20#8 ||| bitByte w, col]
  | .writeChar c => [0x30#8, c]
  | .writeStr str => 0x31#8 :: BitVec.ofNat 8 str.length :: str
  | .setRgb r g b => [0x40#8, r, g, b]
  | .illegal byte0 => [byte0]
  | .lcdClear => [0x80#8, 0x01#8]
  | .lcdEntryMode => [0x80#8, 0x06#8]
  | .lcdControl d c b => [0x80#8, 0x08#8 ||| bitByte d <<< 2 ||| bitByte c <<< 1 ||| bitByte b]
  | .lcdFunctionSet => [0x80#8, 0x28#8]
  | .lcdSetDdram a => [0x80#8, 0x80#8 ||| a.setWidth 8]
  | .lcdData c => [0x40#8, c]
  | .rgbMode1 => [0x00#8, 0x00#8]
  | .rgbLedout => [0x08#8, 0xFF#8]
  | .rgbMode2 => [0x01#8, 0x20#8]
  | .rgbRed v => [0x04#8, v]
  | .rgbGreen v => [0x03#8, v]
  | .rgbBlue v => [0x02#8, v]

/-- Decoding the bytes of a frame to its target. -/
def decodeFrame (showFunction : Byte) (target : Layer) : List Byte → Option Instr
  | [b0, b1] =>
    match target with
    | .host => none
    | .lcdFrame => decodeLcdFrame showFunction b0 b1
    | .rgbFrame => decodeRgbFrame b0 b1
  | _ => none

end Sys2Proof
end

