-- ==== Sys2Proof/Machine/Fetch.lean ====
section
/-! DEFINITION. Where the next instruction comes from: the packet bytes the host hands over (R60), or the frame that
stands at the Bus port. There is no program memory and no program counter to fetch at (R2, R45). -/

namespace Sys2Proof.Machine

/-- The idle block takes one byte (R162): the state with the byte in `pkt`, and the instruction if the packet is now
whole, in which case `pkt` is empty again (R15, R60). -/
def takeByte (b : Byte) (s : State) : State × Option Instr :=
  match decode (s.pkt ++ [b]) with
  | .ok (i, _) => ({ s with pkt := [] }, some i)
  | .error _ => ({ s with pkt := s.pkt ++ [b] }, none)

/-- The kind of the frame `f`, by its target and its bytes (R50 to R53, R59). Where the two addresses are equal the
selector and register bytes still tell the target (R40, R41; log entry 21). -/
def frameKind (f : Frame) (s : State) : Option Instr :=
  (if f.dev = s.addrLcd then decodeLcdFrame s.showFunction f.b0 f.b1 else none).or
    (if f.dev = s.addrRgb then decodeRgbFrame f.b0 f.b1 else none)

/-- The length of the packet that begins a list of bytes; 1 where it begins none. -/
def packetLength (bytes : List Byte) : Nat :=
  match decode bytes with
  | .ok (_, rest) => bytes.length - rest.length
  | .error _ => 1

/-- A packet is about to be whole: all its bytes but the last have been taken by the idle block, and the next byte the
host hands over is the last one. -/
def placePacket (bytes : List Byte) (s : State) : State :=
  match bytes.getLast? with
  | none => s
  | some b =>
    { s with busy := false, pend := none, pkt := bytes.dropLast, bytes := b :: s.bytes }

/-- A frame stands at the Bus port of the idle block, and no reset comes first, even where the Bus does not answer (log
entry 13). -/
def placeFrame (f : Frame) (s : State) : State :=
  { s with busy := false, pend := some (.write f .offered), afterResets := [] }

/-- The instruction of a table word (`decodeTableWord`) placed where the next step takes it: a packet at the host port,
a frame at the Bus port (log entry 15). -/
def placeWord (nbits w : Nat) (s : State) : State :=
  let bytes := tablePacket nbits w
  let asPacket := placePacket (bytes.take (packetLength bytes)) s
  if nbits = 16 then
    let b0 := wordByte (w % 2 ^ 16) 1
    let b1 := wordByte (w % 2 ^ 16) 0
    if (decodeLcdFrame Config.showFunction b0 b1).isSome then placeFrame ⟨s.addrLcd, b0, b1⟩ s
    else if (decodeRgbFrame b0 b1).isSome then placeFrame ⟨s.addrRgb, b0, b1⟩ s
    else asPacket
  else asPacket

end Sys2Proof.Machine
end

