-- ==== Sys2Proof/Machine/Step.lean ====
section
/-! DEFINITION. One step of the machine. -/

namespace Sys2Proof.Machine

/-- What the block does with the moves of its environment: a write that stands at the Bus port is run as the frame it is;
else the running operation is taken up where it stands; else the idle block takes the host's next byte and, if that makes
the packet whole, runs its instruction (R60). With no input to act on, the block waits. -/
def goOn (s : State) : Host.Outcome State Fault Refusal :=
  match s.pend with
  | some (.write f _) =>
    match frameKind f s with
    | some i => exec i s
    | none => .fault .strayFrame
  | some (.delay _ _) | some (.response _) => exec s.op s
  | none =>
    if s.busy then exec s.op s
    else
      match s.bytes with
      | b :: later =>
        match takeByte b { s with bytes := later } with
        | (s1, some i) => exec i s1
        | (s1, none) => .next s1
      | [] => .next s

/-- A step: where nothing more happens before the next reset, the reset (R155, R156); else the block goes on. -/
def step (s : State) : Host.Outcome State Fault Refusal :=
  if s.stalled then
    match s.afterResets with
    | i :: later => .next (applyReset i later s)
    | [] => goOn s
  else goOn s

/-- `s` with the instruction of a table word where the next step takes it. -/
def State.withFetchWord (s : State) (nbits w : Nat) : State := placeWord nbits w s

end Sys2Proof.Machine
end

