-- ==== Sys2Proof/Machine/Ports.lean ====
section
/-! DEFINITION. What can be seen of the block at any time without a side effect: the three status outputs (R48) and the
port signals by the names and widths of R49; and the input signals of R49 that the moves in State stand for. A payload is
none where its `valid` is 0 and, for `rsp_err`, where the status is not BUS_ERROR: it is then unspecified on the wires and
absent in the model (D21, X2). -/

namespace Sys2Proof.Machine

/-- `mode` (R11, R48). -/
def modeOut (s : State) : BitVec 1 :=
  match s.mode with
  | .uninitialized => 0#1
  | .ready => 1#1

/-- `busy` (R15, R48). -/
def busyOut (s : State) : BitVec 1 := BitVec.ofBool s.busy

/-- `ctrl_value[7:0]` (R18, R48). -/
def ctrlValueOut (s : State) : Byte := crValue s.ctrl

/-- `rsp_status[1:0]`, the code of a status (R130). -/
def statusCode (r : Response) : BitVec 2 :=
  match r with
  | .ok => 0#2
  | .busError _ => 1#2
  | .invalidState => 2#2
  | .illegalCommand => 3#2

/-- The error value a status carries (R130, D21). -/
def statusError (r : Response) : Option BusErr :=
  match r with
  | .busError e => some e
  | .ok | .invalidState | .illegalCommand => none

/-- The write offered at the Bus port; a write the Bus has taken is offered no more. -/
def offeredWrite (s : State) : Option Frame :=
  match s.pend with
  | some (.write f .offered) => some f
  | some (.write _ .taken) | some (.delay _ _) | some (.response _) | none => none

/-- `dly_ms[15:0]`: the delay offered at the Clock port. -/
def dlyMs (s : State) : Option Millis :=
  match s.pend with
  | some (.delay n .offered) => some n
  | some (.delay _ .taken) | some (.write _ _) | some (.response _) | none => none

/-- The response that stands at the host port. -/
def standingResponse (s : State) : Option Response :=
  match s.pend with
  | some (.response r) => some r
  | some (.write _ _) | some (.delay _ _) | none => none

/-- `cmd_ready`: the idle block takes a byte (R162). -/
def cmdReady (s : State) : Bool := !s.busy && s.pend.isNone

/-- `bus_valid`. -/
def busValid (s : State) : Bool := (offeredWrite s).isSome

/-- `bus_addr[6:0]`, the address as it stands (R13, R31). -/
def busAddr (s : State) : Option DevAddr := (offeredWrite s).map (·.dev)

/-- `bus_b0[7:0]`. -/
def busB0 (s : State) : Option Byte := (offeredWrite s).map (·.b0)

/-- `bus_b1[7:0]`. -/
def busB1 (s : State) : Option Byte := (offeredWrite s).map (·.b1)

/-- `dly_valid`. -/
def dlyValid (s : State) : Bool := (dlyMs s).isSome

/-- `rsp_valid`. -/
def rspValid (s : State) : Bool := (standingResponse s).isSome

/-- `rsp_status[1:0]`. -/
def rspStatus (s : State) : Option (BitVec 2) := (standingResponse s).map statusCode

/-- `rsp_err[EW-1:0]`. -/
def rspErr (s : State) : Option (BitVec Config.ew) := ((standingResponse s).bind statusError).map Config.errorCode

/-! ## The input signals -/

/-- `cmd_valid`: the host holds a byte out. -/
def cmdValid (s : State) : Bool := !s.bytes.isEmpty

/-- `cmd_data[7:0]`. -/
def cmdData (s : State) : Option Byte := s.bytes.head?

/-- `rsp_ready`. -/
def rspReady (s : State) : Bool := s.rspTakes != 0

/-- `bus_ready` and `dly_ready` of a move. -/
def moveReady {α : Type} : PortMove α → Bool
  | .ready => true
  | .done _ | .late _ => false

/-- `bus_done` and `dly_done` of a move. -/
def moveDone {α : Type} : PortMove α → Bool
  | .ready => false
  | .done _ | .late _ => true

/-- `bus_fail` of a move of the Bus. -/
def busFail : BusMove → Option Bool
  | .ready => none
  | .done .ok | .late .ok => some false
  | .done (.err _) | .late (.err _) => some true

/-- `bus_code[EW-1:0]` of a move of the Bus. -/
def busCode : BusMove → Option (BitVec Config.ew)
  | .ready | .done .ok | .late .ok => none
  | .done (.err e) | .late (.err e) => some (Config.errorCode e)

end Sys2Proof.Machine
end

