-- ==== Sys2Proof/Safety.lean ====
section
/-! DEFINITION. What claims about runs are stated in: the invariant of the block, the frames the block may send, and the
named premises of spec/70_reset_and_hazards.md R163. -/

namespace Sys2Proof.Machine

/-! ## The invariant -/

/-- The widths of R10: `upc` 0 to 13, `sidx` 0 to 255, at most 256 bytes of a packet that is not complete (the longest
has 257, R63), and an operation that a packet can spell. -/
def State.widths (s : State) : Bool :=
  decide (s.upc ≤ 13) && decide (s.sidx ≤ 255) && decide (s.pkt.length ≤ 256) && s.op.wf && s.op.layer == .host

/-- `pkt` holds no complete packet (R15). -/
def State.pktPartial (s : State) : Bool :=
  match decode s.pkt with
  | .ok _ => false
  | .error _ => true

/-- The status that stands at the host port fits the operation and the mode (R130 to R134, R140). -/
def responseFits (r : Response) (s : State) : Bool :=
  match r with
  | .illegalCommand => requiredMode s.op == none
  | .invalidState => requiredMode s.op != none && requiredMode s.op != some s.mode
  | .busError _ => requiredMode s.op == some s.mode
  | .ok => requiredMode s.op != none && s.mode == .ready

/-- A request as it was when it was put. -/
def Request.asPut : Request → Request
  | .write f _ => .write f .offered
  | .delay n _ => .delay n .offered
  | .response r => .response r

/-- A running operation stands at a row of its step table, and a request that stands is that row's, taken already or not
(R15, R16, R49). -/
def State.atRow (s : State) : Bool :=
  match tableOf s.op with
  | none => false
  | some t =>
    match t.issue { s with pend := none } with
    | none => false
    | some s1 => s.pend == none || s.pend.map Request.asPut == s1.pend

/-- How far INIT has brought CTRL (R86, R92): nothing is known before its first micro-step, then 000, and 100 from the
micro-step at `upc` 6 on. -/
def State.initCtrl (s : State) : Bool :=
  s.op != .init || (s.upc == 0 && s.pend == none) ||
  (decide (s.upc ≤ 6) && s.ctrl == 0b000#3 && (s.upc != 6 || s.pend == none)) ||
  (decide (6 ≤ s.upc) && s.ctrl == 0b100#3 && (s.upc != 6 || s.pend != none))

/-- A running WRITE_STR is within its string (R108). -/
def State.withinString (s : State) : Bool :=
  match s.op with
  | .writeStr str => decide (s.sidx ≤ str.length)
  | .init | .clear | .setDisplay _ | .setCursor _ | .setBlink _ | .setCursorPosition _ _ | .writeChar _
  | .setRgb _ _ _ | .illegal _ | .lcdClear | .lcdEntryMode | .lcdControl _ _ _ | .lcdFunctionSet | .lcdSetDdram _
  | .lcdData _ | .rgbMode1 | .rgbLedout | .rgbMode2 | .rgbRed _ | .rgbGreen _ | .rgbBlue _ => true

/-- What holds of a running operation: it stands at a row of its table in the mode that admits it, or its response
stands at the host port. -/
def State.runs (s : State) : Bool :=
  match s.pend with
  | some (.response r) => responseFits r s
  | some (.write _ _) | some (.delay _ _) | none =>
    s.atRow && requiredMode s.op == some s.mode && s.initCtrl && s.withinString

/-- The invariant: SHOW_FUNCTION is this hardware's (R6), the widths, no complete packet held, nothing stands at a port
of an idle block (R155), no partial packet is held by a running one (R15), and a running operation is well placed. -/
def State.inv (s : State) : Bool :=
  s.showFunction == Config.showFunction && s.widths && s.pktPartial &&
  (if s.busy then s.pkt.isEmpty && s.runs else s.pend == none)

/-- The invariant as a proposition. -/
abbrev State.Inv (s : State) : Prop := s.inv = true

/-! ## What the block sends -/

/-- The command bytes of R53, as value sets. -/
def commandByte (p : Byte) : Bool :=
  p == 0x01#8 || p == 0x06#8 || (decide (0x08#8 ≤ p) && decide (p ≤ 0x0F#8)) || p == 0x28#8 || decide (0x80#8 ≤ p)

/-- The frames the block sends, by R50 to R53 and R59, given its two addresses: nothing else is ever emitted (R65). -/
def frameAllowed (addrLcd addrRgb : DevAddr) (f : Frame) : Bool :=
  (f.dev == addrLcd && ((f.b0 == 0x80#8 && commandByte f.b1) || f.b0 == 0x40#8)) ||
  (f.dev == addrRgb &&
    ((f.b0 == 0x00#8 && f.b1 == 0x00#8) || (f.b0 == 0x08#8 && f.b1 == 0xFF#8) || (f.b0 == 0x01#8 && f.b1 == 0x20#8) ||
      f.b0 == 0x04#8 || f.b0 == 0x03#8 || f.b0 == 0x02#8))

/-- Every bus write of the trace is an allowed frame. -/
def State.traceAllowed (s : State) : Bool :=
  s.trace.all fun e =>
    match e with
    | .write f _ => frameAllowed s.addrLcd s.addrRgb f
    | .op _ | .delay _ | .rsp _ => true

/-! ## What a list of events took from the environment -/

/-- The answers of the bus writes, in order. -/
def answersOf : List Event → List Answer
  | [] => []
  | .write _ a :: es => a :: answersOf es
  | .op _ :: es | .delay _ :: es | .rsp _ :: es => answersOf es

/-- The number of delays. -/
def delaysOf : List Event → Nat
  | [] => 0
  | .delay _ :: es => delaysOf es + 1
  | .op _ :: es | .write _ _ :: es | .rsp _ :: es => delaysOf es

/-- The number of responses. -/
def responsesOf : List Event → Nat
  | [] => 0
  | .rsp _ :: es => responsesOf es + 1
  | .op _ :: es | .write _ _ :: es | .delay _ :: es => responsesOf es

/-! ## The inputs one instruction can use, before the next reset -/

/-- There is an answer for each of the next `n` writes. -/
def AnswersThere (n : Nat) (s : State) : Prop := n ≤ s.busAnswers.length

/-- There is an end for each of the next `n` delays. -/
def EndsThere (n : Nat) (s : State) : Prop := n ≤ s.delayEnds

/-- The host takes the next `n` responses. -/
def TakesThere (n : Nat) (s : State) : Prop := n ≤ s.rspTakes

/-! ## Premises of a run (R163), over the whole run and all its resets -/

/-- `P` holds in every state of the run from `s`. -/
def Throughout (P : State → Prop) (s : State) : Prop :=
  ∀ n t, Host.Core.run Sys2Proof.core n s = .next t → P t

/-- The request that stands stands for ever: the environment does nothing more to it, and no reset abandons it (R156). -/
def State.leftStanding (s : State) : Bool := s.waits && !s.resetComes

/-- `StartsFromReset`: Uninitialized, CTRL 000, idle, no partial packet. -/
def StartsFromReset (s : State) : Prop :=
  s.mode = .uninitialized ∧ s.ctrl = 0#3 ∧ s.busy = false ∧ s.pkt = [] ∧ s.pend = none

/-- `BusAnswers`: every bus write of the run is answered, but for one that a reset abandons (DEDUCED, log entry 25). -/
def BusAnswers (s : State) : Prop :=
  Throughout (fun t => ∀ f ph, t.pend = some (.write f ph) → t.leftStanding = false) s

/-- `BusAllOk`: every bus write is answered, and every answer, before and after each reset, is `Ok`. An answer that the
block ignores is not counted: neither a late one to a write that a reset abandoned (R156), nor one that comes while no write
is taken. Every answer the moves hold for writes is counted, also one left over that no write of the run comes to get. That
a late `Err` does not break the premise and a left-over `Err` does is a DESIGN CHOICE (unsafe), log entry 26. -/
def BusAllOk (s : State) : Prop :=
  BusAnswers s ∧ (∀ a ∈ s.busAnswers, a = .ok) ∧ ∀ i ∈ s.afterResets, ∀ a ∈ answersAhead false i.busMoves, a = .ok

/-- `ClockEnds`: every delay of the run is reported over, but for one that a reset abandons (DEDUCED, log entry 25). -/
def ClockEnds (s : State) : Prop :=
  Throughout (fun t => ∀ n ph, t.pend = some (.delay n ph) → t.leftStanding = false) s

/-- `HostTakesResponses`: every response of the run is taken, but for one that a reset abandons (DEDUCED, log entry 25). -/
def HostTakesResponses (s : State) : Prop :=
  Throughout (fun t => ∀ r, t.pend = some (.response r) → t.leftStanding = false) s

/-- The bytes are whole packets, each of an instruction that a packet can spell (R60 to R64). -/
def WholePackets (bytes : List Byte) : Prop :=
  ∃ is : List Instr, (∀ i ∈ is, i.layer = .host ∧ i.wf = true) ∧ bytes = is.flatMap encode

/-- `HostCompletesPackets`: the bytes held with those to come before the next reset are whole packets, and so are the
bytes after each reset. That a packet which a reset cuts in the middle breaks the premise is a DESIGN CHOICE (unsafe), log
entry 28. -/
def HostCompletesPackets (s : State) : Prop :=
  WholePackets (s.pkt ++ s.bytes) ∧ ∀ i ∈ s.afterResets, WholePackets i.bytes

/-- `ResetOnlyWhenIdle`: in no state of the run does a reset come while an operation runs. -/
def ResetOnlyWhenIdle (s : State) : Prop := Throughout (fun t => t.busy = true → t.resetComes = false) s

/-- `DistinctAddresses`. -/
def DistinctAddresses (s : State) : Prop := s.addrLcd ≠ s.addrRgb

/-- An idle block that can take an operation: no operation runs and nothing stands at a port (R15, R46). -/
def State.idle (s : State) : Prop := s.busy = false ∧ s.pend = none

end Sys2Proof.Machine
end

