-- ==== Sys2Proof/Certificates/Slice0/Obligations.lean ====
section
/-! DEFINITION. The statements for the provers. First the vocabulary they are written in (the frames, traces and outcomes
the rules give, spelled out from spec/ and not from the machine), then one definition per obligation. -/

namespace Sys2Proof.Expect

open Sys2Proof Sys2Proof.Machine

/-! ## Vocabulary -/

/-- A command frame, written from R36. -/
def lcdCmd (s : State) (p : Byte) : Frame := ⟨s.addrLcd, 0x80#8, p⟩

/-- A data frame, written from R37. -/
def lcdChr (s : State) (c : Byte) : Frame := ⟨s.addrLcd, 0x40#8, c⟩

/-- A backlight frame, written from R38. -/
def rgbReg (s : State) (r v : Byte) : Frame := ⟨s.addrRgb, r, v⟩

/-- The status that reports the answer of the last write: OK, or BUS_ERROR with the Bus's value unchanged (R131). -/
def statusOf : Answer → Response
  | .ok => .ok
  | .err e => .busError e

/-- The control byte of three flags, written from R55. -/
def controlByte (d c b : Bool) : Byte :=
  0x08#8 ||| (if d then 0x04#8 else 0x00#8) ||| (if c then 0x02#8 else 0x00#8) ||| (if b then 0x01#8 else 0x00#8)

/-- What no operation touches (R10, R13, R14), what of the host's stream stays for later packets, and the resets that are
to come. -/
structure Untouched (s t : State) : Prop where
  addrLcd : t.addrLcd = s.addrLcd
  addrRgb : t.addrRgb = s.addrRgb
  showFunction : t.showFunction = s.showFunction
  bytes : t.bytes = s.bytes
  afterResets : t.afterResets = s.afterResets
  pkt : t.pkt = s.pkt

/-- From `s` the block has come to `t`, idle again, by exactly the events `evs` and then the one response `r`: the trace
is longer by these, each write took the Bus's next answer, each delay one end, the response one take, and nothing stands
at a port. -/
structure Completed (s t : State) (evs : List Event) (r : Response) : Prop extends Untouched s t where
  trace : t.trace = s.trace ++ (evs ++ [.rsp r])
  busAnswers : s.busAnswers = answersOf evs ++ t.busAnswers
  delayEnds : s.delayEnds = delaysOf evs + t.delayEnds
  rspTakes : s.rspTakes = t.rspTakes + 1
  busy : t.busy = false
  pend : t.pend = none

/-- `i`, executed at `s`, is refused: INVALID_STATE, no other event than its acceptance, MODE and CTRL unchanged (R132). -/
def Refused (i : Instr) (s : State) : Prop :=
  ∃ t, exec i s = .next t ∧ Completed s t [.op i] .invalidState ∧ t.mode = s.mode ∧ t.ctrl = s.ctrl

/-- An operation of one write (R148): executed at `s` it makes the write `f`, reports its answer, leaves MODE, and leaves
`ctrl` in CTRL. -/
def OneWrite (i : Instr) (f : Frame) (ctrl : BitVec 3) (s : State) : Prop :=
  ∀ a later, s.busAnswers = a :: later →
    ∃ t, exec i s = .next t ∧ Completed s t [.op i, .write f a] (statusOf a) ∧ t.mode = s.mode ∧ t.ctrl = ctrl

/-- The nine operations of R3. -/
def isOperation : Instr → Bool
  | .init | .clear | .setDisplay _ | .setCursor _ | .setBlink _ | .setCursorPosition _ _ | .writeChar _
  | .writeStr _ | .setRgb _ _ _ => true
  | .illegal _ => false
  | .lcdClear | .lcdEntryMode | .lcdControl _ _ _ | .lcdFunctionSet | .lcdSetDdram _ | .lcdData _ => false
  | .rgbMode1 | .rgbLedout | .rgbMode2 | .rgbRed _ | .rgbGreen _ | .rgbBlue _ => false

/-- The mode R140 asks of an operation. -/
def admittedIn (i : Instr) : Mode := if i = .init then .uninitialized else .ready

/-- The most writes of an operation (R134). -/
def mostWrites : Instr → Nat
  | .init => 9
  | .setRgb _ _ _ => 3
  | .writeStr str => str.length
  | .clear | .setDisplay _ | .setCursor _ | .setBlink _ | .setCursorPosition _ _ | .writeChar _ => 1
  | .illegal _ => 0
  | .lcdClear | .lcdEntryMode | .lcdControl _ _ _ | .lcdFunctionSet | .lcdSetDdram _ | .lcdData _ => 1
  | .rgbMode1 | .rgbLedout | .rgbMode2 | .rgbRed _ | .rgbGreen _ | .rgbBlue _ => 1

/-- The most delays of an operation: INIT's four (R86), CLEAR's one (R100), none else. -/
def mostDelays : Instr → Nat
  | .init => 4
  | .clear => 1
  | .setDisplay _ | .setCursor _ | .setBlink _ | .setCursorPosition _ _ | .writeChar _ | .writeStr _
  | .setRgb _ _ _ | .illegal _ => 0
  | .lcdClear | .lcdEntryMode | .lcdControl _ _ _ | .lcdFunctionSet | .lcdSetDdram _ | .lcdData _ => 0
  | .rgbMode1 | .rgbLedout | .rgbMode2 | .rgbRed _ | .rgbGreen _ | .rgbBlue _ => 0

/-- WRITE_STR, whose table has one row that is gone through once for each byte (R108). -/
def isWriteStr : Instr → Bool
  | .writeStr _ => true
  | .init | .clear | .setDisplay _ | .setCursor _ | .setBlink _ | .setCursorPosition _ _ | .writeChar _
  | .setRgb _ _ _ | .illegal _ => false
  | .lcdClear | .lcdEntryMode | .lcdControl _ _ _ | .lcdFunctionSet | .lcdSetDdram _ | .lcdData _ => false
  | .rgbMode1 | .rgbLedout | .rgbMode2 | .rgbRed _ | .rgbGreen _ | .rgbBlue _ => false

/-- At most `n` packets cut off the front of a stream, and what is left of it. -/
def cut : Nat → List Byte → List Instr × List Byte
  | 0, bs => ([], bs)
  | n + 1, bs =>
    match decode bs with
    | .ok (i, rest) => (i :: (cut n rest).1, (cut n rest).2)
    | .error _ => ([], bs)

/-- The operations of a list of events, in order. -/
def opsOf : List Event → List Instr
  | [] => []
  | .op i :: es => i :: opsOf es
  | .write _ _ :: es | .delay _ :: es | .rsp _ :: es => opsOf es

/-- `evs` is what the packet of `i` is answered with: an operation's acceptance, then writes and delays alone, at most R134's
and its table's, then its one response; an illegal byte's one response alone (log entry 11). -/
def AnswersPacket (i : Instr) (evs : List Event) : Prop :=
  if isOperation i then
    ∃ mid r, evs = .op i :: (mid ++ [.rsp r]) ∧ opsOf mid = [] ∧ responsesOf mid = 0 ∧ r ≠ .illegalCommand ∧
      (answersOf mid).length ≤ mostWrites i ∧ delaysOf mid ≤ mostDelays i
  else evs = [.rsp .illegalCommand]

/-- `evs` is, packet by packet and in order, what the packets of the list are answered with. -/
def AnswersPackets : List Instr → List Event → Prop
  | [], evs => evs = []
  | i :: is, evs => ∃ own rest, evs = own ++ rest ∧ AnswersPacket i own ∧ AnswersPackets is rest

/-- INIT's nine frames in order (R86), for SHOW_FUNCTION = 0x08. -/
def initFrames (s : State) : List Frame :=
  [lcdCmd s 0x28#8, lcdCmd s 0x28#8, lcdCmd s 0x28#8, lcdCmd s 0x0C#8, lcdCmd s 0x01#8, lcdCmd s 0x06#8,
    rgbReg s 0x00#8 0x00#8, rgbReg s 0x08#8 0xFF#8, rgbReg s 0x01#8 0x20#8]

/-- The delay that follows each of them when it has answered `Ok` (R86). -/
def initDelays : List (List Event) := [[.delay 5#16], [.delay 5#16], [], [], [.delay 2#16], [], [], [], []]

/-- INIT's events when its first `k` writes have answered `Ok` (R86, R92). -/
def initOk (s : State) (k : Nat) : List Event :=
  .delay 80#16 :: (((initFrames s).zip initDelays).take k).flatMap fun p => .write p.1 .ok :: p.2

/-- INIT's events when write `k` (from 0) is the first to fail, with `e`; the 2 ms delay follows a failed clear, write 4
(R88, R92). -/
def initFailed (s : State) (k : Nat) (e : BusErr) : List Event :=
  initOk s k ++ ((initFrames s)[k]?.toList.map fun f => .write f (.err e)) ++ (if k = 4 then [.delay 2#16] else [])

/-- SET_RGB's three frames in order (R120). -/
def rgbFrames (s : State) (r g b : Byte) : List Frame := [rgbReg s 0x04#8 r, rgbReg s 0x03#8 g, rgbReg s 0x02#8 b]

/-- Writes that all answer `Ok`. -/
def writesOk (fs : List Frame) : List Event := fs.map fun f => .write f .ok

/-- An operation of several writes and no delay that stops at the first failure (R108, R120): all of them, or those
before the failing one, the failing one, and none after it. -/
def ManyWrites (i : Instr) (fs : List Frame) (s : State) : Prop :=
  (∀ later, s.busAnswers = List.replicate fs.length .ok ++ later →
    ∃ t, exec i s = .next t ∧ Completed s t (.op i :: writesOk fs) .ok ∧ t.mode = s.mode ∧ t.ctrl = s.ctrl) ∧
  (∀ done f rest e later, fs = done ++ f :: rest →
    s.busAnswers = List.replicate done.length .ok ++ .err e :: later →
    ∃ t, exec i s = .next t ∧ Completed s t (.op i :: (writesOk done ++ [.write f (.err e)])) (.busError e) ∧
      t.mode = s.mode ∧ t.ctrl = s.ctrl)

/-- The bytes and target of each frame kind, written from R50 to R59. -/
def frameOf (s : State) : Instr → Option Frame
  | .lcdClear => some (lcdCmd s 0x01#8)
  | .lcdEntryMode => some (lcdCmd s 0x06#8)
  | .lcdControl d c b => some (lcdCmd s (controlByte d c b))
  | .lcdFunctionSet => some (lcdCmd s (0x20#8 ||| s.showFunction))
  | .lcdSetDdram a => some (lcdCmd s (BitVec.ofBool true ++ a))
  | .lcdData c => some (lcdChr s c)
  | .rgbMode1 => some (rgbReg s 0x00#8 0x00#8)
  | .rgbLedout => some (rgbReg s 0x08#8 0xFF#8)
  | .rgbMode2 => some (rgbReg s 0x01#8 0x20#8)
  | .rgbRed v => some (rgbReg s 0x04#8 v)
  | .rgbGreen v => some (rgbReg s 0x03#8 v)
  | .rgbBlue v => some (rgbReg s 0x02#8 v)
  | .init | .clear | .setDisplay _ | .setCursor _ | .setBlink _ | .setCursorPosition _ _ | .writeChar _
  | .writeStr _ | .setRgb _ _ _ | .illegal _ => none

/-- No reset comes next. -/
def noReset (s : State) : Prop := s.resetComes = false

/-- The environment does nothing: a request that is put stands. -/
def silent (s : State) : Prop := s.busMoves = [] ∧ s.clockMoves = [] ∧ s.rspTakes = 0

/-- A state with the write of `f` offered at the Bus port. -/
def offers (f : Frame) (s : State) : State := { s with pend := some (.write f .offered) }

/-- A state with a delay of `n` ms offered at the Clock port. -/
def offersDelay (n : Millis) (s : State) : State := { s with pend := some (.delay n .offered) }

/-- A state with the response `r` at the host port. -/
def responds (r : Response) (s : State) : State := { s with pend := some (.response r) }

/-! ### Renaming bus errors (R32) -/

def mapAnswer (g : BusErr → BusErr) : Answer → Answer
  | .ok => .ok
  | .err e => .err (g e)

def mapResponse (g : BusErr → BusErr) : Response → Response
  | .ok => .ok
  | .busError e => .busError (g e)
  | .invalidState => .invalidState
  | .illegalCommand => .illegalCommand

def mapRequest (g : BusErr → BusErr) : Request → Request
  | .write f ph => .write f ph
  | .delay n ph => .delay n ph
  | .response r => .response (mapResponse g r)

def mapMove (g : BusErr → BusErr) : BusMove → BusMove
  | .ready => .ready
  | .done a => .done (mapAnswer g a)
  | .late a => .late (mapAnswer g a)

def mapInputs (g : BusErr → BusErr) (i : Inputs) : Inputs := { i with busMoves := i.busMoves.map (mapMove g) }

def mapEvent (g : BusErr → BusErr) : Event → Event
  | .op i => .op i
  | .write f a => .write f (mapAnswer g a)
  | .delay n => .delay n
  | .rsp r => .rsp (mapResponse g r)

/-- Every bus error value of a state renamed by `g`. -/
def mapErrors (g : BusErr → BusErr) (s : State) : State :=
  { s with
    held := mapAnswer g s.held, pend := s.pend.map (mapRequest g),
    busMoves := s.busMoves.map (mapMove g), afterResets := s.afterResets.map (mapInputs g),
    trace := s.trace.map (mapEvent g) }

/-- The same of an outcome. -/
def mapOutcome (f : State → State) :
    Host.Outcome State Fault Refusal → Host.Outcome State Fault Refusal
  | .next s => .next (f s)
  | .fault r => .fault r
  | .refused r => .refused r

/-- More inputs behind those that are there: those of `i`, and the resets `rs`. -/
def withMore (i : Inputs) (rs : List Inputs) (s : State) : State :=
  { s with
    bytes := s.bytes ++ i.bytes, busMoves := s.busMoves ++ i.busMoves, clockMoves := s.clockMoves ++ i.clockMoves,
    rspTakes := s.rspTakes + i.rspTakes, afterResets := s.afterResets ++ rs }

/-- The moves of a port without the late answers (R156). -/
def onTime {α : Type} : List (PortMove α) → List (PortMove α)
  | [] => []
  | .late _ :: ms => onTime ms
  | .ready :: ms => .ready :: onTime ms
  | .done x :: ms => .done x :: onTime ms

/-- `s` with other moves of the Bus and the Clock. -/
def withMoves (bm : List BusMove) (cm : List ClockMove) (s : State) : State :=
  { s with busMoves := bm, clockMoves := cm }

/-- The bit number of a flag in CTRL (R12). -/
def flagBit : Flag → Nat
  | .displayOn => 2
  | .cursorOn => 1
  | .blinkOn => 0

end Sys2Proof.Expect

open Sys2Proof Sys2Proof.Machine Sys2Proof.Expect

/-! ## Encoding -/

/-- R60 to R63: a packet decodes to the instruction it was encoded from, every operand at every value, and what follows
it in the stream is left over. -/
def Obligations.HostPacketsDecodeAsEncoded : Prop :=
  ∀ (i : Instr) (rest : List Byte), i.layer = .host → i.wf = true → decode (encode i ++ rest) = .ok (i, rest)

/-- R60 to R64: what a packet decodes to is well formed, and its encoding is the bytes that were read: no byte string has
two meanings, and no illegal byte has the meaning of a legal one. -/
def Obligations.DecodedPacketsReencode : Prop :=
  ∀ (bs : List Byte) (i : Instr) (rest : List Byte), decode bs = .ok (i, rest) →
    i.layer = .host ∧ i.wf = true ∧ encode i ++ rest = bs

/-- R50 to R59: the bytes of a frame tell its kind and its operands, given the target. -/
def Obligations.FramesDecodeAsEncoded : Prop :=
  ∀ i : Instr, i.layer ≠ .host → decodeFrame 0x08#8 i.layer (encode i) = some i

/-- R50 to R59: two bytes that are read as a frame kind are that kind's bytes. -/
def Obligations.DecodedFramesReencode : Prop :=
  ∀ (target : Layer) (b0 b1 : Byte) (i : Instr), decodeFrame 0x08#8 target [b0, b1] = some i →
    i.layer = target ∧ encode i = [b0, b1]

/-- R53, R59 and R61 to R64: the opcode map, byte by byte, for one packet of each format and one frame of each kind of
byte; and the stream of vector V20, cut into its eleven packets with nothing left over. -/
def Obligations.WrittenPacketsDecode : Prop :=
  decode [0x01#8] = .ok (.init, []) ∧ decode [0x02#8] = .ok (.clear, []) ∧
  decode [0x11#8] = .ok (.setDisplay true, []) ∧ decode [0x12#8] = .ok (.setCursor false, []) ∧
  decode [0x15#8] = .ok (.setBlink true, []) ∧
  decode [0x21#8, 0x05#8] = .ok (.setCursorPosition 0x05#8 true, []) ∧
  decode [0x30#8, 0x41#8] = .ok (.writeChar 0x41#8, []) ∧
  decode [0x31#8, 0x02#8, 0x41#8, 0x42#8] = .ok (.writeStr [0x41#8, 0x42#8], []) ∧
  decode [0x40#8, 0x01#8, 0x02#8, 0x03#8] = .ok (.setRgb 0x01#8 0x02#8 0x03#8, []) ∧
  decode [0x16#8] = .ok (.illegal 0x16#8, []) ∧
  decodeFrame 0x08#8 .lcdFrame [0x80#8, 0x28#8] = some .lcdFunctionSet ∧
  decodeFrame 0x08#8 .lcdFrame [0x80#8, 0x0E#8] = some (.lcdControl true true false) ∧
  decodeFrame 0x08#8 .lcdFrame [0x80#8, 0xC5#8] = some (.lcdSetDdram 0x45#7) ∧
  decodeFrame 0x08#8 .rgbFrame [0x08#8, 0xFF#8] = some .rgbLedout ∧
  cut 12 [0x01#8, 0x02#8, 0x11#8, 0x21#8, 0x05#8, 0x30#8, 0x00#8, 0x31#8, 0x00#8, 0x40#8, 0x00#8, 0x00#8, 0x00#8,
      0x16#8, 0x00#8, 0x31#8, 0x02#8, 0x01#8, 0x02#8, 0x12#8] =
    ([.init, .clear, .setDisplay true, .setCursorPosition 0x05#8 true, .writeChar 0x00#8, .writeStr [],
      .setRgb 0x00#8 0x00#8 0x00#8, .illegal 0x16#8, .illegal 0x00#8, .writeStr [0x01#8, 0x02#8], .setCursor false], [])

/-! ## The control register -/

/-- R18: the control byte, its range, and the status output that shows it. -/
def Obligations.ControlByteOfCtrl : Prop :=
  (∀ ctrl : BitVec 3, crValue ctrl = controlByte (ctrl.getLsbD 2) (ctrl.getLsbD 1) (ctrl.getLsbD 0) ∧
    0x08#8 ≤ crValue ctrl ∧ crValue ctrl ≤ 0x0F#8) ∧
  (∀ p : Byte, 0x08#8 ≤ p → p ≤ 0x0F#8 → ∃ ctrl, crValue ctrl = p) ∧
  (∀ s : State, ctrlValueOut s = crValue s.ctrl)

/-- R75, R76: CR_SET and CR_CLEAR write exactly their flag. -/
def Obligations.ControlRegisterWritesOneFlag : Prop :=
  ∀ (f g : Flag) (ctrl : BitVec 3),
    (crSet f ctrl).getLsbD (flagBit g) = (if g = f then true else ctrl.getLsbD (flagBit g)) ∧
    (crClear f ctrl).getLsbD (flagBit g) = (if g = f then false else ctrl.getLsbD (flagBit g)) ∧
    crUpdate f true ctrl = crSet f ctrl ∧ crUpdate f false ctrl = crClear f ctrl

/-- R78: the five laws. -/
def Obligations.ControlRegisterLaws : Prop :=
  (∀ ctrl : BitVec 3, crValue ctrl = controlByte (ctrl.getLsbD 2) (ctrl.getLsbD 1) (ctrl.getLsbD 0) ∧
    0x08#8 ≤ crValue ctrl ∧ crValue ctrl ≤ 0x0F#8) ∧
  (∀ (f : Flag) (ctrl : BitVec 3), crSet f (crSet f ctrl) = crSet f ctrl ∧
    crClear f (crClear f ctrl) = crClear f ctrl) ∧
  (∀ (f g : Flag) (m n : Bool) (ctrl : BitVec 3), f ≠ g →
    (crUpdate f n ctrl).getLsbD (flagBit g) = ctrl.getLsbD (flagBit g) ∧
    crUpdate f n (crUpdate g m ctrl) = crUpdate g m (crUpdate f n ctrl)) ∧
  (∀ (f : Flag) (ctrl : BitVec 3), (ctrl.getLsbD (flagBit f) = false → crClear f (crSet f ctrl) = ctrl) ∧
    (ctrl.getLsbD (flagBit f) = true → crClear f (crSet f ctrl) ≠ ctrl)) ∧
  (∀ (f : Flag) (ctrl : BitVec 3), (crSet f ctrl).getLsbD (flagBit f) = true ∧
    (crClear f ctrl).getLsbD (flagBit f) = false)

/-- R56: the cursor-address byte is the OR of the whole column with 0x80 or 0xC0, bit by bit; its range for the visible
columns; two operand pairs with the same byte. -/
def Obligations.CursorByteIsTheOr : Prop :=
  ∀ (col : Byte) (w : Bool),
    cursorByte col w = (if w then col ||| 0xC0#8 else col ||| 0x80#8) ∧
    (cursorByte col w).getLsbD 7 = true ∧ (cursorByte col w).getLsbD 6 = (w || col.getLsbD 6) ∧
    (∀ k, k < 6 → (cursorByte col w).getLsbD k = col.getLsbD k) ∧
    (col ≤ 0x0F#8 → (if w then 0xC0#8 ≤ cursorByte col w ∧ cursorByte col w ≤ 0xCF#8
      else 0x80#8 ≤ cursorByte col w ∧ cursorByte col w ≤ 0x8F#8)) ∧
    cursorByte 0x45#8 false = 0xC5#8 ∧ cursorByte 0x05#8 true = 0xC5#8

/-- R130: the four codes, and which status carries a value. -/
def Obligations.StatusCodesAndValues : Prop :=
  statusCode .ok = 0#2 ∧ (∀ e, statusCode (.busError e) = 1#2) ∧ statusCode .invalidState = 2#2 ∧
  statusCode .illegalCommand = 3#2 ∧
  (∀ (r : Response) (e : BusErr), statusError r = some e ↔ r = .busError e)

/-! ## INIT -/

/-- R92: INIT's outcomes by point of failure, from an idle Uninitialized block whose SHOW_FUNCTION is 0x08: the nine-`Ok`
row, and for each `k` the row whose first failing write is the `k`-th (from 0). The inputs used up are those of the events
listed (`Completed`). -/
def Obligations.InitOutcomesByPointOfFailure : Prop :=
  ∀ s : State, s.idle → s.mode = .uninitialized → s.showFunction = 0x08#8 → EndsThere 4 s → TakesThere 1 s →
    (∀ later, s.busAnswers = List.replicate 9 .ok ++ later →
      ∃ t, exec .init s = .next t ∧ Completed s t (.op .init :: initOk s 9) .ok ∧ t.mode = .ready ∧ t.ctrl = 0b100#3) ∧
    (∀ k e later, k < 9 → s.busAnswers = List.replicate k .ok ++ .err e :: later →
      ∃ t, exec .init s = .next t ∧ Completed s t (.op .init :: initFailed s k e) (.busError e) ∧
        t.mode = .uninitialized ∧ t.ctrl = (if k < 3 then 0b000#3 else 0b100#3))

/-- The success trace of R86 written out (vector V10): nine writes and four delays in this order, whatever CTRL held, and
whatever SHOW_FUNCTION is (0x28 where it is 0x08). -/
def Obligations.InitSendsItsSequence : Prop :=
  ∀ (s : State) (later : List Answer), s.idle → s.mode = .uninitialized → EndsThere 4 s → TakesThere 1 s →
    s.busAnswers = List.replicate 9 .ok ++ later →
    ∃ t, exec .init s = .next t ∧
      Completed s t
        [.op .init, .delay 80#16,
          .write (lcdCmd s (0x20#8 ||| s.showFunction)) .ok, .delay 5#16,
          .write (lcdCmd s (0x20#8 ||| s.showFunction)) .ok, .delay 5#16,
          .write (lcdCmd s (0x20#8 ||| s.showFunction)) .ok,
          .write (lcdCmd s 0x0C#8) .ok,
          .write (lcdCmd s 0x01#8) .ok, .delay 2#16,
          .write (lcdCmd s 0x06#8) .ok,
          .write (rgbReg s 0x00#8 0x00#8) .ok, .write (rgbReg s 0x08#8 0xFF#8) .ok,
          .write (rgbReg s 0x01#8 0x20#8) .ok] .ok ∧
      t.mode = .ready ∧ t.ctrl = 0b100#3

/-- R86, row by row: a running INIT with nothing at its ports puts the request of its row there, makes the row's register
update, and, with no move of the environment, waits (log entries 3 and 22: a wait leaves the state; the update comes with
the request). -/
def Obligations.InitRowsPutTheirRequests : Prop :=
  ∀ s : State, s.busy = true → s.op = .init → s.pend = none → silent s →
    (s.upc = 0 → exec .init s = .next (offersDelay 80#16 { s with ctrl := 0#3 })) ∧
    (s.upc = 1 ∨ s.upc = 3 ∨ s.upc = 5 → exec .init s = .next (offers (lcdCmd s (0x20#8 ||| s.showFunction)) s)) ∧
    (s.upc = 2 ∨ s.upc = 4 → exec .init s = .next (offersDelay 5#16 s)) ∧
    (s.upc = 6 → exec .init s = .next
      (offers (lcdCmd s (controlByte true (s.ctrl.getLsbD 1) (s.ctrl.getLsbD 0))) { s with ctrl := s.ctrl ||| 0b100#3 })) ∧
    (s.upc = 7 → exec .init s = .next (offers (lcdCmd s 0x01#8) s)) ∧
    (s.upc = 8 → exec .init s = .next (offersDelay 2#16 s)) ∧
    (s.upc = 9 → exec .init s = .next (offers (lcdCmd s 0x06#8) s)) ∧
    (s.upc = 10 → exec .init s = .next (offers (rgbReg s 0x00#8 0x00#8) s)) ∧
    (s.upc = 11 → exec .init s = .next (offers (rgbReg s 0x08#8 0xFF#8) s)) ∧
    (s.upc = 12 → exec .init s = .next (offers (rgbReg s 0x01#8 0x20#8) s)) ∧
    (s.upc = 13 → exec .init s = .next (responds .ok { s with mode := .ready }))

/-- R100, R108, R120, row by row, as InitRowsPutTheirRequests does for INIT (log entry 3): a running CLEAR, SET_RGB or
WRITE_STR with nothing at its ports. WRITE_STR has one row, for the byte at `sidx` or for the end of the string. -/
def Obligations.ManyStepRowsPutTheirRequests : Prop :=
  ∀ s : State, s.busy = true → s.pend = none → silent s →
    (s.op = .clear →
      (s.upc = 0 → exec .clear s = .next (offers (lcdCmd s 0x01#8) s)) ∧
      (s.upc = 1 → exec .clear s = .next (offersDelay 2#16 s)) ∧
      (s.upc = 2 → exec .clear s = .next (responds (statusOf s.held) s))) ∧
    (∀ r g b, s.op = .setRgb r g b →
      (s.upc = 0 → exec (.setRgb r g b) s = .next (offers (rgbReg s 0x04#8 r) s)) ∧
      (s.upc = 1 → exec (.setRgb r g b) s = .next (offers (rgbReg s 0x03#8 g) s)) ∧
      (s.upc = 2 → exec (.setRgb r g b) s = .next (offers (rgbReg s 0x02#8 b) s)) ∧
      (s.upc = 3 → exec (.setRgb r g b) s = .next (responds .ok s))) ∧
    (∀ str, s.op = .writeStr str → s.upc = 0 →
      (∀ c, str[s.sidx]? = some c → exec (.writeStr str) s = .next (offers (lcdChr s c) s)) ∧
      (str.length ≤ s.sidx → exec (.writeStr str) s = .next (responds .ok s)))

/-- R101, R105, R106, row by row, as InitRowsPutTheirRequests does for INIT (log entries 3 and 22): the two rows of each
operation of one write, with its register update. And R133: an illegal byte, taken by an idle block whose host takes no
response, has its one response standing (`busy` = 1 and `op` meanwhile: log entry 11; `upc` and `sidx`: log entry 27). -/
def Obligations.OneWriteRowsPutTheirRequests : Prop :=
  (∀ s : State, s.busy = true → s.pend = none → silent s →
    (s.upc = 0 →
      (∀ col w, s.op = .setCursorPosition col w →
        exec s.op s = .next (offers (lcdCmd s (if w then col ||| 0xC0#8 else col ||| 0x80#8)) s)) ∧
      (∀ n, s.op = .setDisplay n → exec s.op s = .next
        (offers (lcdCmd s (controlByte n (s.ctrl.getLsbD 1) (s.ctrl.getLsbD 0)))
          { s with ctrl := if n then s.ctrl ||| 0b100#3 else s.ctrl &&& 0b011#3 })) ∧
      (∀ n, s.op = .setCursor n → exec s.op s = .next
        (offers (lcdCmd s (controlByte (s.ctrl.getLsbD 2) n (s.ctrl.getLsbD 0)))
          { s with ctrl := if n then s.ctrl ||| 0b010#3 else s.ctrl &&& 0b101#3 })) ∧
      (∀ n, s.op = .setBlink n → exec s.op s = .next
        (offers (lcdCmd s (controlByte (s.ctrl.getLsbD 2) (s.ctrl.getLsbD 1) n))
          { s with ctrl := if n then s.ctrl ||| 0b001#3 else s.ctrl &&& 0b110#3 })) ∧
      (∀ c, s.op = .writeChar c → exec s.op s = .next (offers (lcdChr s c) s))) ∧
    (s.upc = 1 →
      (∀ col w, s.op = .setCursorPosition col w → exec s.op s = .next (responds .ok s)) ∧
      (∀ n, s.op = .setDisplay n ∨ s.op = .setCursor n ∨ s.op = .setBlink n →
        exec s.op s = .next (responds .ok s)) ∧
      (∀ c, s.op = .writeChar c → exec s.op s = .next (responds .ok s)))) ∧
  (∀ (s : State) (b : Byte), s.idle → s.rspTakes = 0 →
    exec (.illegal b) s =
      .next (responds .illegalCommand { s with busy := true, op := .illegal b, upc := 0, sidx := 0 }))

/-! ## The display operations -/

/-- R100: CLEAR's packet; while Ready the write, always the 2 ms delay, then the held answer as status; refused while
Uninitialized. -/
def Obligations.ClearWritesThenAlwaysDelays : Prop :=
  decode [0x02#8] = .ok (.clear, []) ∧
  ∀ s : State, s.idle → TakesThere 1 s →
    (s.mode = .ready → EndsThere 1 s → ∀ a later, s.busAnswers = a :: later →
      ∃ t, exec .clear s = .next t ∧
        Completed s t [.op .clear, .write (lcdCmd s 0x01#8) a, .delay 2#16] (statusOf a) ∧
        t.mode = .ready ∧ t.ctrl = s.ctrl) ∧
    (s.mode = .uninitialized → Refused .clear s)

/-- R101: SET_CURSOR_POSITION sends the OR byte for every column and row; refused while Uninitialized. -/
def Obligations.SetCursorPositionSendsTheOr : Prop :=
  ∀ (col : Byte) (w : Bool) (s : State),
    decode [if w then 0x21#8 else 0x20#8, col] = .ok (.setCursorPosition col w, []) ∧
    (s.idle → TakesThere 1 s →
      (s.mode = .ready →
        OneWrite (.setCursorPosition col w) (lcdCmd s (if w then col ||| 0xC0#8 else col ||| 0x80#8)) s.ctrl s) ∧
      (s.mode = .uninitialized → Refused (.setCursorPosition col w) s))

/-- R102 (with R105): D <- `n`, C and B unchanged, the complete control byte sent even when D was `n` already, CTRL kept
when the write fails; refused while Uninitialized. -/
def Obligations.SetDisplaySetsDAndResends : Prop :=
  ∀ (n : Bool) (s : State),
    decode [if n then 0x11#8 else 0x10#8] = .ok (.setDisplay n, []) ∧
    (s.idle → TakesThere 1 s →
      (s.mode = .ready →
        OneWrite (.setDisplay n) (lcdCmd s (controlByte n (s.ctrl.getLsbD 1) (s.ctrl.getLsbD 0)))
          (BitVec.ofBool n ++ s.ctrl.extractLsb' 0 2) s) ∧
      (s.mode = .uninitialized → Refused (.setDisplay n) s))

/-- R103 (with R105): C <- `n`, D and B unchanged. -/
def Obligations.SetCursorSetsCAndResends : Prop :=
  ∀ (n : Bool) (s : State),
    decode [if n then 0x13#8 else 0x12#8] = .ok (.setCursor n, []) ∧
    (s.idle → TakesThere 1 s →
      (s.mode = .ready →
        OneWrite (.setCursor n) (lcdCmd s (controlByte (s.ctrl.getLsbD 2) n (s.ctrl.getLsbD 0)))
          (BitVec.ofBool (s.ctrl.getLsbD 2) ++ BitVec.ofBool n ++ BitVec.ofBool (s.ctrl.getLsbD 0)) s) ∧
      (s.mode = .uninitialized → Refused (.setCursor n) s))

/-- R104 (with R105): B <- `n`, D and C unchanged. -/
def Obligations.SetBlinkSetsBAndResends : Prop :=
  ∀ (n : Bool) (s : State),
    decode [if n then 0x15#8 else 0x14#8] = .ok (.setBlink n, []) ∧
    (s.idle → TakesThere 1 s →
      (s.mode = .ready →
        OneWrite (.setBlink n) (lcdCmd s (controlByte (s.ctrl.getLsbD 2) (s.ctrl.getLsbD 1) n))
          (s.ctrl.extractLsb' 1 2 ++ BitVec.ofBool n) s) ∧
      (s.mode = .uninitialized → Refused (.setBlink n) s))

/-- R106: WRITE_CHAR sends its code unchanged; refused while Uninitialized. -/
def Obligations.WriteCharSendsTheCode : Prop :=
  ∀ (c : Byte) (s : State),
    decode [0x30#8, c] = .ok (.writeChar c, []) ∧
    (s.idle → TakesThere 1 s →
      (s.mode = .ready → OneWrite (.writeChar c) (lcdChr s c) s.ctrl s) ∧
      (s.mode = .uninitialized → Refused (.writeChar c) s))

/-- R108: WRITE_STR sends its bytes in order, stops at the first failing write, gives one response; the empty string sends
nothing; refused while Uninitialized. -/
def Obligations.WriteStrSendsInOrder : Prop :=
  ∀ (str : List Byte) (s : State), str.length ≤ 255 →
    decode (0x31#8 :: BitVec.ofNat 8 str.length :: str) = .ok (.writeStr str, []) ∧
    (s.idle → TakesThere 1 s →
      (s.mode = .ready → ManyWrites (.writeStr str) (str.map (lcdChr s)) s) ∧
      (s.mode = .uninitialized → Refused (.writeStr str) s))

/-- R67: a string of one byte has the bus traffic, the status and the registers of WRITE_CHAR. -/
def Obligations.OneByteStringIsWriteChar : Prop :=
  ∀ (c : Byte) (s : State), s.idle → s.mode = .ready → AnswersThere 1 s → TakesThere 1 s →
    ∃ t1 t2 evs, exec (.writeChar c) s = .next t1 ∧ exec (.writeStr [c]) s = .next t2 ∧
      t1.trace = s.trace ++ .op (.writeChar c) :: evs ∧ t2.trace = s.trace ++ .op (.writeStr [c]) :: evs ∧
      t1.mode = t2.mode ∧ t1.ctrl = t2.ctrl ∧ t1.busMoves = t2.busMoves ∧ t1.busy = t2.busy

/-! ## The backlight operation -/

/-- R120, R121: SET_RGB writes red, green, blue in this order and stops at the first failure; refused while
Uninitialized. -/
def Obligations.SetRgbWritesRedGreenBlue : Prop :=
  ∀ (r g b : Byte) (s : State),
    decode [0x40#8, r, g, b] = .ok (.setRgb r g b, []) ∧
    (s.idle → TakesThere 1 s →
      (s.mode = .ready → ManyWrites (.setRgb r g b) (rgbFrames s r g b) s) ∧
      (s.mode = .uninitialized → Refused (.setRgb r g b) s))

/-! ## The frames -/

/-- R31, R36 to R38, R50 to R59: each of the twelve frame kinds, put on the Bus of an idle block or standing there, is one
write of its two bytes to its target, answered by the Bus's next answer; with no answer it stands, offered or taken. Nothing
else changes. (That a frame is an instruction of its own is the model's choice, log entry 13.) -/
def Obligations.FramesAreOneWriteEach : Prop :=
  ∀ (i : Instr) (s : State) (f : Frame), frameOf s i = some f → s.busy = false →
    s.pend = none ∨ (∃ ph, s.pend = some (.write f ph)) →
    (∀ a later, s.busAnswers = a :: later →
      ∃ m, answersAhead false m = later ∧
        exec i s = .next { s with pend := none, busMoves := m, trace := s.trace ++ [.write f a] }) ∧
    (s.busAnswers = [] →
      ∃ ph m, exec i s = .next { s with pend := some (.write f ph), busMoves := m } ∧
        State.waits { s with pend := some (.write f ph), busMoves := m } = true)

/-- The answer to a standing write of a running operation is the operation's (R86, R100, R108, R120): the clear write of
CLEAR and of INIT is held; else, on `Ok`, a running WRITE_STR goes on to its next byte and any other operation to its next
micro-step, and on `Err(e)` BUS_ERROR with `e` stands. (That the frame's own instruction takes the answer, and ends there,
is the model's choice, log entry 13.) -/
def Obligations.StandingWriteAnswerReachesItsOperation : Prop :=
  ∀ (s : State) (f : Frame) (ph : Phase) (i : Instr) (a : Answer) (later : List Answer), s.Inv → s.busy = true →
    s.pend = some (.write f ph) → frameOf s i = some f → s.busAnswers = a :: later →
    ∃ t, exec i s = .next t ∧ t.trace = s.trace ++ [.write f a] ∧ t.busAnswers = later ∧ t.busy = true ∧
      t.op = s.op ∧ t.mode = s.mode ∧ t.ctrl = s.ctrl ∧ t.clockMoves = s.clockMoves ∧ t.rspTakes = s.rspTakes ∧
      Untouched s t ∧
      (if s.op = .clear ∨ (s.op = .init ∧ s.upc = 7) then
        t.held = a ∧ t.upc = s.upc + 1 ∧ t.pend = none ∧ t.sidx = s.sidx
      else t.held = s.held ∧
        match a with
        | .ok => t.pend = none ∧
          (if isWriteStr s.op then t.upc = s.upc ∧ t.sidx = s.sidx + 1 else t.upc = s.upc + 1 ∧ t.sidx = s.sidx)
        | .err e => t.pend = some (.response (.busError e)) ∧ t.upc = s.upc ∧ t.sidx = s.sidx)

/-- R86, R88, R100 (with R44): a standing delay is CLEAR's at `upc` 1 or INIT's at `upc` 0, 2, 4 or 8, with that row's
length; when the Clock reports it over, the operation goes on to its next row, whose request is put: CLEAR responds with
what its write answered, INIT sends its next frame, or after the 2 ms of `upc` 8 aborts with the error its clear write
answered. (The step ends there, with no other move of the environment: log entries 1 and 3.) -/
def Obligations.StandingDelayEndReachesItsOperation : Prop :=
  ∀ (s : State) (n : Millis) (ph : Phase) (k : Nat), s.Inv → s.busy = true → s.pend = some (.delay n ph) →
    s.delayEnds = k + 1 → s.busMoves = [] → s.rspTakes = 0 →
    ∃ m t, (answersAhead false m).length = k ∧ exec s.op s = .next t ∧
      ((s.op = .clear ∧ s.upc = 1 ∧ n = 2#16 ∧
          t = responds (statusOf s.held) { s with upc := 2, clockMoves := m, trace := s.trace ++ [.delay n] }) ∨
        (s.op = .init ∧
          ((s.upc = 0 ∧ n = 80#16) ∨ (s.upc = 2 ∧ n = 5#16) ∨ (s.upc = 4 ∧ n = 5#16)) ∧
          t = offers (lcdCmd s (0x20#8 ||| s.showFunction))
            { s with upc := s.upc + 1, clockMoves := m, trace := s.trace ++ [.delay n] }) ∨
        (s.op = .init ∧ s.upc = 8 ∧ n = 2#16 ∧
          match s.held with
          | .ok => t = offers (lcdCmd s 0x06#8) { s with upc := 9, clockMoves := m, trace := s.trace ++ [.delay n] }
          | .err e => t = responds (.busError e) { s with clockMoves := m, trace := s.trace ++ [.delay n] }))

/-- R46, R47, R162: when the host takes the response that stands, that is the event `Rsp`, and the block is idle; nothing
else changes. (That `busy` goes to 0 in the moment of the taking is DEDUCED, log entry 18.) -/
def Obligations.ResponseTakenEndsTheOperation : Prop :=
  ∀ (s : State) (r : Response) (k : Nat), s.busy = true → s.op.layer = .host → s.pend = some (.response r) →
    s.rspTakes = k + 1 →
    step s = exec s.op s ∧
    exec s.op s = .next { s with pend := none, busy := false, rspTakes := k, trace := s.trace ++ [.rsp r] }

/-- While an operation runs, a frame that is not the one standing at its port is not sent, and nothing changes (R16; the
form is the model's choice, log entry 13). -/
def Obligations.FramesNeverInterrupt : Prop :=
  ∀ (i : Instr) (s : State) (f : Frame), frameOf s i = some f → s.busy = true → (∀ ph, s.pend ≠ some (.write f ph)) →
    exec i s = .next s

/-! ## Refusals -/

/-- R132 (with R110, R85): the packet of an operation that the mode does not admit is taken whole and answered with
INVALID_STATE, before any event but its acceptance; nothing else changes. -/
def Obligations.WrongModeIsRefused : Prop :=
  ∀ (s : State) (b : Byte) (later : List Byte) (i : Instr), s.idle → TakesThere 1 s →
    s.bytes = b :: later → decode (s.pkt ++ [b]) = .ok (i, []) → isOperation i = true →
    s.mode ≠ admittedIn i →
    ∃ t, step s = .next t ∧ t.trace = s.trace ++ [.op i, .rsp .invalidState] ∧ t.mode = s.mode ∧ t.ctrl = s.ctrl ∧
      t.pkt = [] ∧ t.bytes = later ∧ t.busMoves = s.busMoves ∧ t.clockMoves = s.clockMoves ∧
      t.afterResets = s.afterResets ∧ s.rspTakes = t.rspTakes + 1 ∧ t.idle ∧ t.addrLcd = s.addrLcd ∧ t.addrRgb = s.addrRgb ∧
      t.showFunction = s.showFunction

/-- R64 (with R133): every byte 0 outside R61's table, in either mode, is a packet of one byte: it is taken, nothing else
happens, and the response is ILLEGAL_COMMAND. (That no `Op` event is recorded is the model's reading, log entry 11.) -/
def Obligations.IllegalByteIsRefused : Prop :=
  ∀ (s : State) (b : Byte) (later : List Byte), s.idle → s.pkt = [] → TakesThere 1 s →
    s.bytes = b :: later → illegalByte0 b = true →
    decode [b] = .ok (.illegal b, []) ∧
    ∃ t, step s = .next t ∧ t.trace = s.trace ++ [.rsp .illegalCommand] ∧ t.mode = s.mode ∧ t.ctrl = s.ctrl ∧
      t.pkt = [] ∧ t.bytes = later ∧ t.busMoves = s.busMoves ∧ t.clockMoves = s.clockMoves ∧
      t.afterResets = s.afterResets ∧ s.rspTakes = t.rspTakes + 1 ∧ t.idle ∧ t.addrLcd = s.addrLcd ∧ t.addrRgb = s.addrRgb ∧
      t.showFunction = s.showFunction

/-- The meaning of an illegal byte completes from every idle state whose response the host takes (R133; no `Op` event:
the model's reading, log entry 11). -/
def Obligations.IllegalCompletes : Prop :=
  ∀ (b : Byte) (s : State), s.idle → TakesThere 1 s →
    ∃ t, exec (.illegal b) s = .next t ∧ Completed s t [] .illegalCommand ∧ t.mode = s.mode ∧ t.ctrl = s.ctrl

/-! ## The step -/

/-- The idle block takes the host's byte; if that makes the packet whole, the step is the meaning of its instruction, run
with the packet consumed and nothing left of it. (One byte a step is DEDUCED, log entry 23.) -/
def Obligations.StepRunsTheWholePacket : Prop :=
  ∀ (s : State) (b : Byte) (later : List Byte) (i : Instr) (rest : List Byte), s.idle →
    s.bytes = b :: later → decode (s.pkt ++ [b]) = .ok (i, rest) →
    step s = exec i { s with bytes := later, pkt := [] }

/-- R162: while the packet is not whole the byte is kept, and nothing else happens. (One byte a step is DEDUCED, log
entry 23.) -/
def Obligations.StepKeepsPartialPacket : Prop :=
  ∀ (s : State) (b : Byte) (later : List Byte) (e : DecodeError), s.idle → s.bytes = b :: later →
    decode (s.pkt ++ [b]) = .error e → step s = .next { s with bytes := later, pkt := s.pkt ++ [b] }

/-- R60, R162: a packet handed over byte by byte (from the start, or the rest of it) is taken one byte a step, nothing
happens before its last byte, and the step that takes the last byte is the meaning of the instruction it encodes. (One byte
is one transfer, R49; that one step takes one byte, and so the count of steps, is DEDUCED, log entry 23.) -/
def Obligations.PacketByteByByteRunsOnce : Prop :=
  ∀ (i : Instr) (s : State) (k : Nat) (later : List Byte), i.layer = .host → i.wf = true → s.idle →
    k < (encode i).length → s.pkt = (encode i).take k → s.bytes = (encode i).drop k ++ later →
    Host.Core.run Sys2Proof.core ((encode i).length - k) s = exec i { s with bytes := later, pkt := [] }

/-- R31, R65: a write that stands at the Bus port is run as the frame its bytes decode to, and it is that frame's. (That a
step runs it so is the model's choice, log entry 13; where the two addresses are equal, log entry 21.) -/
def Obligations.StepRunsTheStandingFrame : Prop :=
  ∀ (s : State) (f : Frame) (ph : Phase) (i : Instr), noReset s → s.pend = some (.write f ph) →
    frameKind f s = some i → step s = exec i s ∧ frameOf s i = some f

/-- A running operation with no write standing is taken up by its own meaning; and, a write standing or not, a step of a
running block takes no byte of the host, and leaves what is held of a packet as it is (R46, R60). -/
def Obligations.StepResumesTheOperation : Prop :=
  ∀ s : State, noReset s → s.busy = true →
    ((∀ f ph, s.pend ≠ some (.write f ph)) → step s = exec s.op s) ∧
    ∀ t, step s = .next t → t.bytes = s.bytes ∧ t.pkt = s.pkt

/-- R162: an idle block with no byte of the host, and no reset to come, waits. (That the wait is a step which leaves the
state is the model's choice, log entry 3.) -/
def Obligations.IdleBlockWaits : Prop :=
  ∀ s : State, s.idle → s.bytes = [] → s.afterResets = [] → step s = .next s

/-- R35: an unanswered write or an unfinished delay (and, R162, a response not taken) is never passed: the block waits
with `busy` = 1 and its request standing, for as long as no input comes. (That a wait is a step which leaves the state is
the model's choice, log entry 3.) -/
def Obligations.UnansweredRequestIsNeverPassed : Prop :=
  ∀ (s : State) (n : Nat), s.Inv → s.busy = true → s.waits = true → noReset s →
    step s = .next s ∧ Host.Core.run Sys2Proof.core n s = .next s

/-- R49: the request and its answer are two transfers. A write or a delay that is offered and then taken, and not answered,
stands taken: its `valid` falls, the operation waits, and nothing happens. Answers before it is taken are ignored, and so is
a `ready` after it, which is no transfer, and a late answer, which is another request's (R156; log entry 24). -/
def Obligations.TakenRequestAwaitsItsAnswer : Prop :=
  ∀ s : State, s.Inv → s.busy = true → noReset s →
    (∀ (f : Frame) (before after : List BusMove), s.pend = some (.write f .offered) →
      s.busMoves = before ++ .ready :: after → .ready ∉ before → (∀ a, .done a ∉ after) →
      ∃ t, step s = .next t ∧ t = { s with pend := some (.write f .taken), busMoves := after } ∧
        busValid s = true ∧ busValid t = false ∧ t.waits = true) ∧
    (∀ (n : Millis) (before after : List ClockMove), s.pend = some (.delay n .offered) →
      s.clockMoves = before ++ .ready :: after → .ready ∉ before → .done () ∉ after →
      ∃ t, step s = .next t ∧ t = { s with pend := some (.delay n .taken), clockMoves := after } ∧
        dlyValid s = true ∧ dlyValid t = false ∧ t.waits = true)

/-- R156: the block ignores the answer of the Bus or the Clock to a request that a reset abandoned, whenever it comes: with
late answers put in anywhere among the moves, or taken out, an instruction does the same and leaves the same other moves. And
answers of the Bus that come while no write is taken, or of the Clock while no delay is, which are none of the block's,
change nothing that an instruction does and no answer the block gets later (the model's reading, log entry 24). -/
def Obligations.LateAnswersAreIgnored : Prop :=
  (∀ (i : Instr) (s t : State) (bm : List BusMove) (cm : List ClockMove), onTime bm = onTime s.busMoves →
    onTime cm = onTime s.clockMoves → exec i s = .next t →
    ∃ bm' cm', exec i (withMoves bm cm s) = .next (withMoves bm' cm' t) ∧ onTime bm' = onTime t.busMoves ∧
      onTime cm' = onTime t.clockMoves) ∧
  (∀ (i : Instr) (s t : State) (early : List Answer), s.writeTaken = false → exec i s = .next t →
    ∃ bm, exec i (withMoves (early.map .done ++ s.busMoves) s.clockMoves s) = .next (withMoves bm t.clockMoves t) ∧
      (withMoves bm t.clockMoves t).busAnswers = t.busAnswers) ∧
  (∀ (i : Instr) (s t : State) (early : Nat), s.delayTaken = false → exec i s = .next t →
    ∃ cm, exec i (withMoves s.busMoves (List.replicate early (.done ()) ++ s.clockMoves) s) =
        .next (withMoves t.busMoves cm t) ∧
      (withMoves t.busMoves cm t).delayEnds = t.delayEnds)

/-- R155, R156: reset, idle or in the middle of an operation: MODE, CTRL, `busy` and the partial packet as R21 says,
whatever stood at a port abandoned, no event, the constants not touched; from then on the inputs are those that come after
the reset. A reset can land in every state in which the block is idle or a request stands. (That a reset is one step, and
lands where nothing more happens before it, is the model's choice, log entry 10.) -/
def Obligations.ResetFromAnyState : Prop :=
  (∀ s : State, s.Inv → silent s → s.bytes = [] → s.busy = false ∨ s.pend ≠ none → s.stalled = true) ∧
  ∀ (s : State) (i : Inputs) (later : List Inputs), s.stalled = true → s.afterResets = i :: later →
    ∃ t, step s = .next t ∧ t.mode = .uninitialized ∧ t.ctrl = 0b000#3 ∧ ctrlValueOut t = 0x08#8 ∧ t.busy = false ∧
      t.pkt = [] ∧ t.pend = none ∧ t.trace = s.trace ∧ t.addrLcd = s.addrLcd ∧ t.addrRgb = s.addrRgb ∧
      t.showFunction = s.showFunction ∧ t.bytes = i.bytes ∧ t.busMoves = i.busMoves ∧ t.clockMoves = i.clockMoves ∧
      t.rspTakes = i.rspTakes ∧ t.afterResets = later

/-- R21: what the reset state holds of the values the spec gives. -/
def Obligations.ResetStateValues : Prop :=
  StartsFromReset State.reset ∧ ctrlValueOut State.reset = 0x08#8 ∧ State.reset.showFunction = 0x08#8 ∧
  State.reset.trace = []

/-! ## Invariants and whole-machine rules -/

/-- The invariant holds after reset. -/
def Obligations.ResetMeetsTheInvariant : Prop := State.reset.Inv

/-- Every step from a state that meets the invariant answers a next state, and that state meets it: no fault and no
refusal is ever reached, `upc` never leaves the table, and what stands at a port is always the running row's. -/
def Obligations.StepKeepsTheInvariant : Prop :=
  ∀ s : State, s.Inv → ∃ t, step s = .next t ∧ t.Inv

/-- R65: every frame ever sent is one of R53's command frames, a data frame or one of R59's backlight frames, to the
block's own two addresses. -/
def Obligations.OnlyTheTwelveFrameKinds : Prop :=
  ∀ s t : State, s.Inv → s.traceAllowed = true → step s = .next t →
    t.traceAllowed = true ∧ ∀ f ph, t.pend = some (.write f ph) → frameAllowed t.addrLcd t.addrRgb f = true

/-- R34 (with R32, R47): the trace only grows; the writes of a step take the Bus's answers one by one in order, its delays
the Clock's ends, its responses the host's takes: none is dropped, repeated or reordered. Of the host's bytes, handed over
one by one (R49, R60, R162), at most the next one is taken (that a step takes no more is DEDUCED, log entry 23). A reset
makes no event, and the inputs become those after it (log entry 10). -/
def Obligations.EventsAccountForInputs : Prop :=
  ∀ s t : State, step s = .next t →
    (s.resetComes = true ∧ t.trace = s.trace ∧
      s.afterResets = ⟨t.bytes, t.busMoves, t.clockMoves, t.rspTakes⟩ :: t.afterResets) ∨
    (s.resetComes = false ∧ t.afterResets = s.afterResets ∧
      ∃ evs, t.trace = s.trace ++ evs ∧ s.busAnswers = answersOf evs ++ t.busAnswers ∧
        s.delayEnds = delaysOf evs + t.delayEnds ∧ s.rspTakes = responsesOf evs + t.rspTakes ∧
        (t.bytes = s.bytes ∨ ∃ b, s.bytes = b :: t.bytes))

/-- R13, R14: nothing writes the constants. -/
def Obligations.ConstantsNeverChange : Prop :=
  ∀ s t : State, step s = .next t →
    t.addrLcd = s.addrLcd ∧ t.addrRgb = s.addrRgb ∧ t.showFunction = s.showFunction

/-- R11, R140: MODE is left only two ways: Uninitialized by an INIT that has reached OK, Ready by reset. (The INIT is named
by `op` and `upc` as the step left them, which log entry 9 says the end of an operation keeps; that MODE changes when the
OK response is put is DEDUCED, log entry 22.) -/
def Obligations.ModeChangesOnlyByInitAndReset : Prop :=
  ∀ s t : State, step s = .next t → t.mode ≠ s.mode →
    (s.mode = .ready ∧ t.mode = .uninitialized ∧ s.resetComes = true) ∨
    (s.mode = .uninitialized ∧ t.mode = .ready ∧ t.op = .init ∧ t.upc = 13 ∧
      (t.pend = some (.response .ok) ∨ ∃ evs, t.trace = s.trace ++ (evs ++ [.rsp .ok])))

/-- R17: a flag that a step changes was cleared by reset; or was changed by INIT, which sets or clears D and only clears C
and B; or was written by its own operation with that operation's operand: D by SET_DISPLAY, C by SET_CURSOR, B by
SET_BLINK. No other operation and no frame changes one. (The operation is named by `op` as the step left it, which log
entry 9 says the end of an operation keeps.) -/
def Obligations.FlagsChangeOnlyByTheirWriters : Prop :=
  ∀ s t : State, step s = .next t →
    ∀ f : Flag, t.ctrl.getLsbD (flagBit f) ≠ s.ctrl.getLsbD (flagBit f) →
      (s.resetComes = true ∧ t.ctrl = 0b000#3) ∨
      (s.resetComes = false ∧ t.op = .init ∧ (f = .displayOn ∨ t.ctrl.getLsbD (flagBit f) = false)) ∨
      (s.resetComes = false ∧ ∃ n, t.ctrl.getLsbD (flagBit f) = n ∧
        t.op = (match f with | .displayOn => .setDisplay n | .cursorOn => .setCursor n | .blinkOn => .setBlink n))

/-- R148: the bounds on micro-steps suffice: an operation or an illegal byte, begun or taken up again, runs until its
response is given or the environment has no answer. (That one `exec` runs it so far is the model's choice, log entry 1;
R148 gives the bounds.) -/
def Obligations.OperationsRunToResponseOrWait : Prop :=
  ∀ (i : Instr) (s : State), i.layer = .host → i.wf = true → s.Inv → s.pkt = [] →
    s.busy = false ∨ s.op = i →
    ∃ t, exec i s = .next t ∧ t.Inv ∧ (t.busy = false ∨ t.waits = true)

/-- R35 (with R148): the block hangs only where its environment does: where a byte, an answer, a delay's end or a take is
there for what it waits for, or a micro-step is to be made, a step changes the state. -/
def Obligations.NothingHangsWithInputsThere : Prop :=
  ∀ s t : State, s.Inv → s.stalled = false → step s = .next t → t ≠ s

/-- R163 (with R134, R148): with the answers, delay ends and the one take that an operation can use, it ends with exactly
one response, which is its last event, in either mode, having made at most R134's writes and its table's delays. -/
def Obligations.EveryOperationEnds : Prop :=
  ∀ (i : Instr) (s : State), isOperation i = true → i.wf = true → s.Inv → s.idle → s.pkt = [] →
    AnswersThere (mostWrites i) s → EndsThere (mostDelays i) s → TakesThere 1 s →
    ∃ t evs r, exec i s = .next t ∧ Completed s t (.op i :: evs) r ∧ responsesOf evs = 0 ∧ r ≠ .illegalCommand ∧
      (answersOf evs).length ≤ mostWrites i ∧ delaysOf evs ≤ mostDelays i

/-- R163 with R46, R47, R60: a host that hands over whole packets and takes the responses, a Bus that answers and a Clock
that ends its delays; then the block comes to be idle again with every byte taken, and what has happened is, packet by
packet and in order, the operation's acceptance, its writes and delays, and its one response. (That an illegal byte has its
response alone, with no `Op` event, is the model's reading, log entry 11; that this takes as many steps as there are bytes
is the model's choice, log entries 1 and 23.) -/
def Obligations.EveryPacketGetsOneResponse : Prop :=
  ∀ (is : List Instr) (s : State), (∀ i ∈ is, i.layer = .host ∧ i.wf = true) → s.Inv → s.idle → s.pkt = [] →
    s.bytes = is.flatMap encode → AnswersThere ((is.map mostWrites).sum) s → EndsThere ((is.map mostDelays).sum) s →
    TakesThere is.length s →
    ∃ t evs, Host.Core.run Sys2Proof.core s.bytes.length s = .next t ∧ t.Inv ∧ t.idle ∧ t.pkt = [] ∧ t.bytes = [] ∧
      t.trace = s.trace ++ evs ∧ AnswersPackets is evs ∧ s.busAnswers = answersOf evs ++ t.busAnswers ∧
      s.delayEnds = delaysOf evs + t.delayEnds ∧ s.rspTakes = is.length + t.rspTakes

/-- R163 (with R35, R148, R156): in a run whose writes are answered, whose delays end and whose responses are taken, through
any number of resets, an operation that runs in some state of it ends: within three steps the block is not busy; and where
resets come only to an idle block, within two, by its response. (That two or three steps suffice is the model's choice,
log entries 1, 10 and 13.) -/
def Obligations.RunningOperationsEndUnderThePremises : Prop :=
  ∀ (s t : State) (n : Nat), s.Inv → BusAnswers s → ClockEnds s → HostTakesResponses s →
    Host.Core.run Sys2Proof.core n s = .next t → t.busy = true →
    (∃ k t', k ≤ 3 ∧ Host.Core.run Sys2Proof.core k t = .next t' ∧ t'.busy = false) ∧
    (ResetOnlyWhenIdle s → ∃ k t' evs r, k ≤ 2 ∧ Host.Core.run Sys2Proof.core k t = .next t' ∧ t'.idle ∧
      t'.trace = t.trace ++ (evs ++ [.rsp r]) ∧ responsesOf evs = 0 ∧ opsOf evs = [])

/-- R163 (with R35, R162): a run under the premises, through any number of resets, rests only where all is done: the block
is idle, no packet is held in part, every byte of the host is taken and every reset has come. (A state rests where a step
leaves it as it is, log entry 3; that a host whose packet a reset cuts does not meet the premise is log entry 28.) -/
def Obligations.RunsRestOnlyWhereAllIsDone : Prop :=
  ∀ (s t : State) (n : Nat), s.Inv → BusAnswers s → ClockEnds s → HostTakesResponses s → HostCompletesPackets s →
    Host.Core.run Sys2Proof.core n s = .next t → step t = .next t →
    t.idle ∧ t.pkt = [] ∧ t.bytes = [] ∧ t.afterResets = []

/-- R32: the block never looks into a bus error value: renaming the values of a state and stepping is stepping and
renaming. -/
def Obligations.BusErrorsAreOpaque : Prop :=
  ∀ (g : BusErr → BusErr) (s : State), step (mapErrors g s) = mapOutcome (mapErrors g) (step s)

/-- R34, R35: inputs that come later do not change what has been done with those that are there: an instruction that does
not end waiting does the same with more inputs behind, and leaves them. -/
def Obligations.LaterInputsChangeNothing : Prop :=
  ∀ (i : Instr) (s t : State) (more : Inputs) (resets : List Inputs), exec i s = .next t → t.waits = false →
    exec i (withMore more resets s) = .next (withMore more resets t)

/-- R136, R141: after any response, whatever its status, the block takes the next packet under the same rules: what the
next instruction does from an idle state depends on nothing of the sequencer that an earlier operation left. -/
def Obligations.NothingIsRememberedOfAnOperation : Prop :=
  ∀ (i : Instr) (s : State) (op : Instr) (upc sidx : Nat) (held : Answer), s.idle →
    ∀ t, exec i s = .next t → isOperation i = true →
      ∃ t', exec i { s with op := op, upc := upc, sidx := sidx, held := held } = .next t' ∧
        t'.trace = t.trace ∧ t'.mode = t.mode ∧ t'.ctrl = t.ctrl ∧ t'.busy = t.busy ∧ t'.pend = t.pend ∧
        t'.busMoves = t.busMoves ∧ t'.clockMoves = t.clockMoves ∧ t'.rspTakes = t.rspTakes ∧ Untouched s t'

/-- R48, R49, D21: what stands at a port shows there with its payload, and nothing else shows at a port. A write or a
delay that has been taken shows at none. The error value is on the response port exactly with BUS_ERROR. The idle block
takes a byte. The three status outputs show MODE, `busy` and CTRL_VALUE. (That at most one port is driven is R16 and R46
by log entry 5, DEDUCED: one request at a time.) -/
def Obligations.PortsShowTheState : Prop :=
  ∀ s : State,
    (∀ f, s.pend = some (.write f .offered) →
      busValid s = true ∧ busAddr s = some f.dev ∧ busB0 s = some f.b0 ∧ busB1 s = some f.b1 ∧
      dlyValid s = false ∧ rspValid s = false) ∧
    (∀ n, s.pend = some (.delay n .offered) →
      dlyValid s = true ∧ dlyMs s = some n ∧ busValid s = false ∧ rspValid s = false) ∧
    (∀ r, s.pend = some (.response r) →
      rspValid s = true ∧ rspStatus s = some (statusCode r) ∧ busValid s = false ∧ dlyValid s = false) ∧
    (s.pend = none ∨ (∃ f, s.pend = some (.write f .taken)) ∨ (∃ n, s.pend = some (.delay n .taken)) →
      busValid s = false ∧ dlyValid s = false ∧ rspValid s = false) ∧
    (∀ e, s.pend = some (.response (.busError e)) → rspErr s = some (Config.errorCode e)) ∧
    ((∀ e, s.pend ≠ some (.response (.busError e))) → rspErr s = none) ∧
    (cmdReady s = true ↔ s.idle) ∧
    (modeOut s = 1#1 ↔ s.mode = .ready) ∧ (busyOut s = 1#1 ↔ s.busy = true) ∧
    ctrlValueOut s = controlByte (s.ctrl.getLsbD 2) (s.ctrl.getLsbD 1) (s.ctrl.getLsbD 0)
end

