-- ==== Sys2Proof/Laws/Decode.lean ====
section
/-! SUPPORT. Small lemmas of the decoder and the encoder. -/

namespace Sys2Proof

@[simp] theorem lowBit_or_bitByte (n : Bool) :
    lowBit (0x10#8 ||| bitByte n) = n ∧ lowBit (0x12#8 ||| bitByte n) = n ∧ lowBit (0x14#8 ||| bitByte n) = n ∧
      lowBit (0x20#8 ||| bitByte n) = n := by
  cases n <;> decide

theorem opKindOf_setDisplay (n : Bool) : opKindOf (0x10#8 ||| bitByte n) = some .setDisplay := by cases n <;> decide

theorem opKindOf_setCursor (n : Bool) : opKindOf (0x12#8 ||| bitByte n) = some .setCursor := by cases n <;> decide

theorem opKindOf_setBlink (n : Bool) : opKindOf (0x14#8 ||| bitByte n) = some .setBlink := by cases n <;> decide

theorem opKindOf_setCursorPosition (w : Bool) : opKindOf (0x20#8 ||| bitByte w) = some .setCursorPosition := by
  cases w <;> decide

theorem opKindOf_fixed :
    opKindOf 0x01#8 = some .init ∧ opKindOf 0x02#8 = some .clear ∧ opKindOf 0x30#8 = some .writeChar ∧
      opKindOf 0x31#8 = some .writeStr ∧ opKindOf 0x40#8 = some .setRgb := by decide

/-- No two rows of the opcode map match the same byte (R61). -/
theorem opcodeMap_rows_disjoint :
    opcodeMap.Pairwise fun r1 r2 => ∀ b : Byte, (r1.hits b && r2.hits b) = false := by decide +kernel

end Sys2Proof
end

