-- ==== Sys2Proof/Laws/State.lean ====
section
/-! SUPPORT. One lemma per field of State for each named update, so that no proof unfolds a record update. -/

namespace Sys2Proof.Machine

variable (s : State)

@[simp] theorem emit_mode (e : Event) : (s.emit e).mode = s.mode := rfl
@[simp] theorem emit_ctrl (e : Event) : (s.emit e).ctrl = s.ctrl := rfl
@[simp] theorem emit_addrLcd (e : Event) : (s.emit e).addrLcd = s.addrLcd := rfl
@[simp] theorem emit_addrRgb (e : Event) : (s.emit e).addrRgb = s.addrRgb := rfl
@[simp] theorem emit_showFunction (e : Event) : (s.emit e).showFunction = s.showFunction := rfl
@[simp] theorem emit_busy (e : Event) : (s.emit e).busy = s.busy := rfl
@[simp] theorem emit_op (e : Event) : (s.emit e).op = s.op := rfl
@[simp] theorem emit_upc (e : Event) : (s.emit e).upc = s.upc := rfl
@[simp] theorem emit_sidx (e : Event) : (s.emit e).sidx = s.sidx := rfl
@[simp] theorem emit_held (e : Event) : (s.emit e).held = s.held := rfl
@[simp] theorem emit_pkt (e : Event) : (s.emit e).pkt = s.pkt := rfl
@[simp] theorem emit_pend (e : Event) : (s.emit e).pend = s.pend := rfl
@[simp] theorem emit_bytes (e : Event) : (s.emit e).bytes = s.bytes := rfl
@[simp] theorem emit_busMoves (e : Event) : (s.emit e).busMoves = s.busMoves := rfl
@[simp] theorem emit_clockMoves (e : Event) : (s.emit e).clockMoves = s.clockMoves := rfl
@[simp] theorem emit_rspTakes (e : Event) : (s.emit e).rspTakes = s.rspTakes := rfl
@[simp] theorem emit_afterResets (e : Event) : (s.emit e).afterResets = s.afterResets := rfl
@[simp] theorem emit_trace (e : Event) : (s.emit e).trace = s.trace ++ [e] := rfl

@[simp] theorem request_mode (r : Request) : (s.request r).mode = s.mode := rfl
@[simp] theorem request_ctrl (r : Request) : (s.request r).ctrl = s.ctrl := rfl
@[simp] theorem request_addrLcd (r : Request) : (s.request r).addrLcd = s.addrLcd := rfl
@[simp] theorem request_addrRgb (r : Request) : (s.request r).addrRgb = s.addrRgb := rfl
@[simp] theorem request_showFunction (r : Request) : (s.request r).showFunction = s.showFunction := rfl
@[simp] theorem request_busy (r : Request) : (s.request r).busy = s.busy := rfl
@[simp] theorem request_op (r : Request) : (s.request r).op = s.op := rfl
@[simp] theorem request_upc (r : Request) : (s.request r).upc = s.upc := rfl
@[simp] theorem request_sidx (r : Request) : (s.request r).sidx = s.sidx := rfl
@[simp] theorem request_held (r : Request) : (s.request r).held = s.held := rfl
@[simp] theorem request_pkt (r : Request) : (s.request r).pkt = s.pkt := rfl
@[simp] theorem request_pend (r : Request) : (s.request r).pend = some r := rfl
@[simp] theorem request_bytes (r : Request) : (s.request r).bytes = s.bytes := rfl
@[simp] theorem request_busMoves (r : Request) : (s.request r).busMoves = s.busMoves := rfl
@[simp] theorem request_clockMoves (r : Request) : (s.request r).clockMoves = s.clockMoves := rfl
@[simp] theorem request_rspTakes (r : Request) : (s.request r).rspTakes = s.rspTakes := rfl
@[simp] theorem request_afterResets (r : Request) : (s.request r).afterResets = s.afterResets := rfl
@[simp] theorem request_trace (r : Request) : (s.request r).trace = s.trace := rfl

@[simp] theorem setCtrl_mode (v : BitVec 3) : (s.setCtrl v).mode = s.mode := rfl
@[simp] theorem setCtrl_ctrl (v : BitVec 3) : (s.setCtrl v).ctrl = v := rfl
@[simp] theorem setCtrl_addrLcd (v : BitVec 3) : (s.setCtrl v).addrLcd = s.addrLcd := rfl
@[simp] theorem setCtrl_addrRgb (v : BitVec 3) : (s.setCtrl v).addrRgb = s.addrRgb := rfl
@[simp] theorem setCtrl_showFunction (v : BitVec 3) : (s.setCtrl v).showFunction = s.showFunction := rfl
@[simp] theorem setCtrl_busy (v : BitVec 3) : (s.setCtrl v).busy = s.busy := rfl
@[simp] theorem setCtrl_op (v : BitVec 3) : (s.setCtrl v).op = s.op := rfl
@[simp] theorem setCtrl_upc (v : BitVec 3) : (s.setCtrl v).upc = s.upc := rfl
@[simp] theorem setCtrl_sidx (v : BitVec 3) : (s.setCtrl v).sidx = s.sidx := rfl
@[simp] theorem setCtrl_held (v : BitVec 3) : (s.setCtrl v).held = s.held := rfl
@[simp] theorem setCtrl_pkt (v : BitVec 3) : (s.setCtrl v).pkt = s.pkt := rfl
@[simp] theorem setCtrl_pend (v : BitVec 3) : (s.setCtrl v).pend = s.pend := rfl
@[simp] theorem setCtrl_bytes (v : BitVec 3) : (s.setCtrl v).bytes = s.bytes := rfl
@[simp] theorem setCtrl_busMoves (v : BitVec 3) : (s.setCtrl v).busMoves = s.busMoves := rfl
@[simp] theorem setCtrl_clockMoves (v : BitVec 3) : (s.setCtrl v).clockMoves = s.clockMoves := rfl
@[simp] theorem setCtrl_rspTakes (v : BitVec 3) : (s.setCtrl v).rspTakes = s.rspTakes := rfl
@[simp] theorem setCtrl_afterResets (v : BitVec 3) : (s.setCtrl v).afterResets = s.afterResets := rfl
@[simp] theorem setCtrl_trace (v : BitVec 3) : (s.setCtrl v).trace = s.trace := rfl

@[simp] theorem setMode_mode (m : Mode) : (s.setMode m).mode = m := rfl
@[simp] theorem setMode_ctrl (m : Mode) : (s.setMode m).ctrl = s.ctrl := rfl
@[simp] theorem setMode_addrLcd (m : Mode) : (s.setMode m).addrLcd = s.addrLcd := rfl
@[simp] theorem setMode_addrRgb (m : Mode) : (s.setMode m).addrRgb = s.addrRgb := rfl
@[simp] theorem setMode_showFunction (m : Mode) : (s.setMode m).showFunction = s.showFunction := rfl
@[simp] theorem setMode_busy (m : Mode) : (s.setMode m).busy = s.busy := rfl
@[simp] theorem setMode_op (m : Mode) : (s.setMode m).op = s.op := rfl
@[simp] theorem setMode_upc (m : Mode) : (s.setMode m).upc = s.upc := rfl
@[simp] theorem setMode_sidx (m : Mode) : (s.setMode m).sidx = s.sidx := rfl
@[simp] theorem setMode_held (m : Mode) : (s.setMode m).held = s.held := rfl
@[simp] theorem setMode_pkt (m : Mode) : (s.setMode m).pkt = s.pkt := rfl
@[simp] theorem setMode_pend (m : Mode) : (s.setMode m).pend = s.pend := rfl
@[simp] theorem setMode_bytes (m : Mode) : (s.setMode m).bytes = s.bytes := rfl
@[simp] theorem setMode_busMoves (m : Mode) : (s.setMode m).busMoves = s.busMoves := rfl
@[simp] theorem setMode_clockMoves (m : Mode) : (s.setMode m).clockMoves = s.clockMoves := rfl
@[simp] theorem setMode_rspTakes (m : Mode) : (s.setMode m).rspTakes = s.rspTakes := rfl
@[simp] theorem setMode_afterResets (m : Mode) : (s.setMode m).afterResets = s.afterResets := rfl
@[simp] theorem setMode_trace (m : Mode) : (s.setMode m).trace = s.trace := rfl

@[simp] theorem nextUpc_mode : (s.nextUpc).mode = s.mode := rfl
@[simp] theorem nextUpc_ctrl : (s.nextUpc).ctrl = s.ctrl := rfl
@[simp] theorem nextUpc_addrLcd : (s.nextUpc).addrLcd = s.addrLcd := rfl
@[simp] theorem nextUpc_addrRgb : (s.nextUpc).addrRgb = s.addrRgb := rfl
@[simp] theorem nextUpc_showFunction : (s.nextUpc).showFunction = s.showFunction := rfl
@[simp] theorem nextUpc_busy : (s.nextUpc).busy = s.busy := rfl
@[simp] theorem nextUpc_op : (s.nextUpc).op = s.op := rfl
@[simp] theorem nextUpc_upc : (s.nextUpc).upc = s.upc + 1 := rfl
@[simp] theorem nextUpc_sidx : (s.nextUpc).sidx = s.sidx := rfl
@[simp] theorem nextUpc_held : (s.nextUpc).held = s.held := rfl
@[simp] theorem nextUpc_pkt : (s.nextUpc).pkt = s.pkt := rfl
@[simp] theorem nextUpc_pend : (s.nextUpc).pend = s.pend := rfl
@[simp] theorem nextUpc_bytes : (s.nextUpc).bytes = s.bytes := rfl
@[simp] theorem nextUpc_busMoves : (s.nextUpc).busMoves = s.busMoves := rfl
@[simp] theorem nextUpc_clockMoves : (s.nextUpc).clockMoves = s.clockMoves := rfl
@[simp] theorem nextUpc_rspTakes : (s.nextUpc).rspTakes = s.rspTakes := rfl
@[simp] theorem nextUpc_afterResets : (s.nextUpc).afterResets = s.afterResets := rfl
@[simp] theorem nextUpc_trace : (s.nextUpc).trace = s.trace := rfl

@[simp] theorem nextSidx_mode : (s.nextSidx).mode = s.mode := rfl
@[simp] theorem nextSidx_ctrl : (s.nextSidx).ctrl = s.ctrl := rfl
@[simp] theorem nextSidx_addrLcd : (s.nextSidx).addrLcd = s.addrLcd := rfl
@[simp] theorem nextSidx_addrRgb : (s.nextSidx).addrRgb = s.addrRgb := rfl
@[simp] theorem nextSidx_showFunction : (s.nextSidx).showFunction = s.showFunction := rfl
@[simp] theorem nextSidx_busy : (s.nextSidx).busy = s.busy := rfl
@[simp] theorem nextSidx_op : (s.nextSidx).op = s.op := rfl
@[simp] theorem nextSidx_upc : (s.nextSidx).upc = s.upc := rfl
@[simp] theorem nextSidx_sidx : (s.nextSidx).sidx = s.sidx + 1 := rfl
@[simp] theorem nextSidx_held : (s.nextSidx).held = s.held := rfl
@[simp] theorem nextSidx_pkt : (s.nextSidx).pkt = s.pkt := rfl
@[simp] theorem nextSidx_pend : (s.nextSidx).pend = s.pend := rfl
@[simp] theorem nextSidx_bytes : (s.nextSidx).bytes = s.bytes := rfl
@[simp] theorem nextSidx_busMoves : (s.nextSidx).busMoves = s.busMoves := rfl
@[simp] theorem nextSidx_clockMoves : (s.nextSidx).clockMoves = s.clockMoves := rfl
@[simp] theorem nextSidx_rspTakes : (s.nextSidx).rspTakes = s.rspTakes := rfl
@[simp] theorem nextSidx_afterResets : (s.nextSidx).afterResets = s.afterResets := rfl
@[simp] theorem nextSidx_trace : (s.nextSidx).trace = s.trace := rfl

@[simp] theorem hold_mode (a : Answer) : (s.hold a).mode = s.mode := rfl
@[simp] theorem hold_ctrl (a : Answer) : (s.hold a).ctrl = s.ctrl := rfl
@[simp] theorem hold_addrLcd (a : Answer) : (s.hold a).addrLcd = s.addrLcd := rfl
@[simp] theorem hold_addrRgb (a : Answer) : (s.hold a).addrRgb = s.addrRgb := rfl
@[simp] theorem hold_showFunction (a : Answer) : (s.hold a).showFunction = s.showFunction := rfl
@[simp] theorem hold_busy (a : Answer) : (s.hold a).busy = s.busy := rfl
@[simp] theorem hold_op (a : Answer) : (s.hold a).op = s.op := rfl
@[simp] theorem hold_upc (a : Answer) : (s.hold a).upc = s.upc := rfl
@[simp] theorem hold_sidx (a : Answer) : (s.hold a).sidx = s.sidx := rfl
@[simp] theorem hold_held (a : Answer) : (s.hold a).held = a := rfl
@[simp] theorem hold_pkt (a : Answer) : (s.hold a).pkt = s.pkt := rfl
@[simp] theorem hold_pend (a : Answer) : (s.hold a).pend = s.pend := rfl
@[simp] theorem hold_bytes (a : Answer) : (s.hold a).bytes = s.bytes := rfl
@[simp] theorem hold_busMoves (a : Answer) : (s.hold a).busMoves = s.busMoves := rfl
@[simp] theorem hold_clockMoves (a : Answer) : (s.hold a).clockMoves = s.clockMoves := rfl
@[simp] theorem hold_rspTakes (a : Answer) : (s.hold a).rspTakes = s.rspTakes := rfl
@[simp] theorem hold_afterResets (a : Answer) : (s.hold a).afterResets = s.afterResets := rfl
@[simp] theorem hold_trace (a : Answer) : (s.hold a).trace = s.trace := rfl

@[simp] theorem sendFrame_mode (f : Frame) : (sendFrame f s).mode = s.mode := rfl
@[simp] theorem sendFrame_ctrl (f : Frame) : (sendFrame f s).ctrl = s.ctrl := rfl
@[simp] theorem sendFrame_addrLcd (f : Frame) : (sendFrame f s).addrLcd = s.addrLcd := rfl
@[simp] theorem sendFrame_addrRgb (f : Frame) : (sendFrame f s).addrRgb = s.addrRgb := rfl
@[simp] theorem sendFrame_showFunction (f : Frame) : (sendFrame f s).showFunction = s.showFunction := rfl
@[simp] theorem sendFrame_busy (f : Frame) : (sendFrame f s).busy = s.busy := rfl
@[simp] theorem sendFrame_op (f : Frame) : (sendFrame f s).op = s.op := rfl
@[simp] theorem sendFrame_upc (f : Frame) : (sendFrame f s).upc = s.upc := rfl
@[simp] theorem sendFrame_sidx (f : Frame) : (sendFrame f s).sidx = s.sidx := rfl
@[simp] theorem sendFrame_held (f : Frame) : (sendFrame f s).held = s.held := rfl
@[simp] theorem sendFrame_pkt (f : Frame) : (sendFrame f s).pkt = s.pkt := rfl
@[simp] theorem sendFrame_pend (f : Frame) : (sendFrame f s).pend = some (.write f .offered) := rfl
@[simp] theorem sendFrame_bytes (f : Frame) : (sendFrame f s).bytes = s.bytes := rfl
@[simp] theorem sendFrame_busMoves (f : Frame) : (sendFrame f s).busMoves = s.busMoves := rfl
@[simp] theorem sendFrame_clockMoves (f : Frame) : (sendFrame f s).clockMoves = s.clockMoves := rfl
@[simp] theorem sendFrame_rspTakes (f : Frame) : (sendFrame f s).rspTakes = s.rspTakes := rfl
@[simp] theorem sendFrame_afterResets (f : Frame) : (sendFrame f s).afterResets = s.afterResets := rfl
@[simp] theorem sendFrame_trace (f : Frame) : (sendFrame f s).trace = s.trace := rfl

@[simp] theorem delayMs_mode (n : Millis) : (delayMs n s).mode = s.mode := rfl
@[simp] theorem delayMs_ctrl (n : Millis) : (delayMs n s).ctrl = s.ctrl := rfl
@[simp] theorem delayMs_addrLcd (n : Millis) : (delayMs n s).addrLcd = s.addrLcd := rfl
@[simp] theorem delayMs_addrRgb (n : Millis) : (delayMs n s).addrRgb = s.addrRgb := rfl
@[simp] theorem delayMs_showFunction (n : Millis) : (delayMs n s).showFunction = s.showFunction := rfl
@[simp] theorem delayMs_busy (n : Millis) : (delayMs n s).busy = s.busy := rfl
@[simp] theorem delayMs_op (n : Millis) : (delayMs n s).op = s.op := rfl
@[simp] theorem delayMs_upc (n : Millis) : (delayMs n s).upc = s.upc := rfl
@[simp] theorem delayMs_sidx (n : Millis) : (delayMs n s).sidx = s.sidx := rfl
@[simp] theorem delayMs_held (n : Millis) : (delayMs n s).held = s.held := rfl
@[simp] theorem delayMs_pkt (n : Millis) : (delayMs n s).pkt = s.pkt := rfl
@[simp] theorem delayMs_pend (n : Millis) : (delayMs n s).pend = some (.delay n .offered) := rfl
@[simp] theorem delayMs_bytes (n : Millis) : (delayMs n s).bytes = s.bytes := rfl
@[simp] theorem delayMs_busMoves (n : Millis) : (delayMs n s).busMoves = s.busMoves := rfl
@[simp] theorem delayMs_clockMoves (n : Millis) : (delayMs n s).clockMoves = s.clockMoves := rfl
@[simp] theorem delayMs_rspTakes (n : Millis) : (delayMs n s).rspTakes = s.rspTakes := rfl
@[simp] theorem delayMs_afterResets (n : Millis) : (delayMs n s).afterResets = s.afterResets := rfl
@[simp] theorem delayMs_trace (n : Millis) : (delayMs n s).trace = s.trace := rfl

@[simp] theorem raise_mode (r : Response) : (raise r s).mode = s.mode := rfl
@[simp] theorem raise_ctrl (r : Response) : (raise r s).ctrl = s.ctrl := rfl
@[simp] theorem raise_addrLcd (r : Response) : (raise r s).addrLcd = s.addrLcd := rfl
@[simp] theorem raise_addrRgb (r : Response) : (raise r s).addrRgb = s.addrRgb := rfl
@[simp] theorem raise_showFunction (r : Response) : (raise r s).showFunction = s.showFunction := rfl
@[simp] theorem raise_busy (r : Response) : (raise r s).busy = s.busy := rfl
@[simp] theorem raise_op (r : Response) : (raise r s).op = s.op := rfl
@[simp] theorem raise_upc (r : Response) : (raise r s).upc = s.upc := rfl
@[simp] theorem raise_sidx (r : Response) : (raise r s).sidx = s.sidx := rfl
@[simp] theorem raise_held (r : Response) : (raise r s).held = s.held := rfl
@[simp] theorem raise_pkt (r : Response) : (raise r s).pkt = s.pkt := rfl
@[simp] theorem raise_pend (r : Response) : (raise r s).pend = some (.response r) := rfl
@[simp] theorem raise_bytes (r : Response) : (raise r s).bytes = s.bytes := rfl
@[simp] theorem raise_busMoves (r : Response) : (raise r s).busMoves = s.busMoves := rfl
@[simp] theorem raise_clockMoves (r : Response) : (raise r s).clockMoves = s.clockMoves := rfl
@[simp] theorem raise_rspTakes (r : Response) : (raise r s).rspTakes = s.rspTakes := rfl
@[simp] theorem raise_afterResets (r : Response) : (raise r s).afterResets = s.afterResets := rfl
@[simp] theorem raise_trace (r : Response) : (raise r s).trace = s.trace := rfl

@[simp] theorem giveResponse_mode (r : Response) : (giveResponse r s).mode = s.mode := rfl
@[simp] theorem giveResponse_ctrl (r : Response) : (giveResponse r s).ctrl = s.ctrl := rfl
@[simp] theorem giveResponse_addrLcd (r : Response) : (giveResponse r s).addrLcd = s.addrLcd := rfl
@[simp] theorem giveResponse_addrRgb (r : Response) : (giveResponse r s).addrRgb = s.addrRgb := rfl
@[simp] theorem giveResponse_showFunction (r : Response) : (giveResponse r s).showFunction = s.showFunction := rfl
@[simp] theorem giveResponse_busy (r : Response) : (giveResponse r s).busy = false := rfl
@[simp] theorem giveResponse_op (r : Response) : (giveResponse r s).op = s.op := rfl
@[simp] theorem giveResponse_upc (r : Response) : (giveResponse r s).upc = s.upc := rfl
@[simp] theorem giveResponse_sidx (r : Response) : (giveResponse r s).sidx = s.sidx := rfl
@[simp] theorem giveResponse_held (r : Response) : (giveResponse r s).held = s.held := rfl
@[simp] theorem giveResponse_pkt (r : Response) : (giveResponse r s).pkt = s.pkt := rfl
@[simp] theorem giveResponse_pend (r : Response) : (giveResponse r s).pend = none := rfl
@[simp] theorem giveResponse_bytes (r : Response) : (giveResponse r s).bytes = s.bytes := rfl
@[simp] theorem giveResponse_busMoves (r : Response) : (giveResponse r s).busMoves = s.busMoves := rfl
@[simp] theorem giveResponse_clockMoves (r : Response) : (giveResponse r s).clockMoves = s.clockMoves := rfl
@[simp] theorem giveResponse_rspTakes (r : Response) : (giveResponse r s).rspTakes = s.rspTakes := rfl
@[simp] theorem giveResponse_afterResets (r : Response) : (giveResponse r s).afterResets = s.afterResets := rfl
@[simp] theorem giveResponse_trace (r : Response) : (giveResponse r s).trace = s.trace ++ [.rsp r] := rfl

@[simp] theorem answerWrite_mode (f : Frame) (a : Answer) (l : List BusMove) : (answerWrite f a l s).mode = s.mode :=
  rfl
@[simp] theorem answerWrite_ctrl (f : Frame) (a : Answer) (l : List BusMove) : (answerWrite f a l s).ctrl = s.ctrl :=
  rfl
@[simp] theorem answerWrite_addrLcd (f : Frame) (a : Answer) (l : List BusMove) :
    (answerWrite f a l s).addrLcd = s.addrLcd := rfl
@[simp] theorem answerWrite_addrRgb (f : Frame) (a : Answer) (l : List BusMove) :
    (answerWrite f a l s).addrRgb = s.addrRgb := rfl
@[simp] theorem answerWrite_showFunction (f : Frame) (a : Answer) (l : List BusMove) :
    (answerWrite f a l s).showFunction = s.showFunction := rfl
@[simp] theorem answerWrite_busy (f : Frame) (a : Answer) (l : List BusMove) : (answerWrite f a l s).busy = s.busy :=
  rfl
@[simp] theorem answerWrite_op (f : Frame) (a : Answer) (l : List BusMove) : (answerWrite f a l s).op = s.op := rfl
@[simp] theorem answerWrite_upc (f : Frame) (a : Answer) (l : List BusMove) : (answerWrite f a l s).upc = s.upc := rfl
@[simp] theorem answerWrite_sidx (f : Frame) (a : Answer) (l : List BusMove) : (answerWrite f a l s).sidx = s.sidx :=
  rfl
@[simp] theorem answerWrite_held (f : Frame) (a : Answer) (l : List BusMove) : (answerWrite f a l s).held = s.held :=
  rfl
@[simp] theorem answerWrite_pkt (f : Frame) (a : Answer) (l : List BusMove) : (answerWrite f a l s).pkt = s.pkt := rfl
@[simp] theorem answerWrite_pend (f : Frame) (a : Answer) (l : List BusMove) : (answerWrite f a l s).pend = none :=
  rfl
@[simp] theorem answerWrite_bytes (f : Frame) (a : Answer) (l : List BusMove) :
    (answerWrite f a l s).bytes = s.bytes := rfl
@[simp] theorem answerWrite_busMoves (f : Frame) (a : Answer) (l : List BusMove) :
    (answerWrite f a l s).busMoves = l := rfl
@[simp] theorem answerWrite_clockMoves (f : Frame) (a : Answer) (l : List BusMove) :
    (answerWrite f a l s).clockMoves = s.clockMoves := rfl
@[simp] theorem answerWrite_rspTakes (f : Frame) (a : Answer) (l : List BusMove) :
    (answerWrite f a l s).rspTakes = s.rspTakes := rfl
@[simp] theorem answerWrite_afterResets (f : Frame) (a : Answer) (l : List BusMove) :
    (answerWrite f a l s).afterResets = s.afterResets := rfl
@[simp] theorem answerWrite_trace (f : Frame) (a : Answer) (l : List BusMove) :
    (answerWrite f a l s).trace = s.trace ++ [.write f a] := rfl

@[simp] theorem endDelay_mode (n : Millis) (l : List ClockMove) : (endDelay n l s).mode = s.mode := rfl
@[simp] theorem endDelay_ctrl (n : Millis) (l : List ClockMove) : (endDelay n l s).ctrl = s.ctrl := rfl
@[simp] theorem endDelay_addrLcd (n : Millis) (l : List ClockMove) : (endDelay n l s).addrLcd = s.addrLcd := rfl
@[simp] theorem endDelay_addrRgb (n : Millis) (l : List ClockMove) : (endDelay n l s).addrRgb = s.addrRgb := rfl
@[simp] theorem endDelay_showFunction (n : Millis) (l : List ClockMove) :
    (endDelay n l s).showFunction = s.showFunction := rfl
@[simp] theorem endDelay_busy (n : Millis) (l : List ClockMove) : (endDelay n l s).busy = s.busy := rfl
@[simp] theorem endDelay_op (n : Millis) (l : List ClockMove) : (endDelay n l s).op = s.op := rfl
@[simp] theorem endDelay_upc (n : Millis) (l : List ClockMove) : (endDelay n l s).upc = s.upc := rfl
@[simp] theorem endDelay_sidx (n : Millis) (l : List ClockMove) : (endDelay n l s).sidx = s.sidx := rfl
@[simp] theorem endDelay_held (n : Millis) (l : List ClockMove) : (endDelay n l s).held = s.held := rfl
@[simp] theorem endDelay_pkt (n : Millis) (l : List ClockMove) : (endDelay n l s).pkt = s.pkt := rfl
@[simp] theorem endDelay_pend (n : Millis) (l : List ClockMove) : (endDelay n l s).pend = none := rfl
@[simp] theorem endDelay_bytes (n : Millis) (l : List ClockMove) : (endDelay n l s).bytes = s.bytes := rfl
@[simp] theorem endDelay_busMoves (n : Millis) (l : List ClockMove) : (endDelay n l s).busMoves = s.busMoves := rfl
@[simp] theorem endDelay_clockMoves (n : Millis) (l : List ClockMove) : (endDelay n l s).clockMoves = l := rfl
@[simp] theorem endDelay_rspTakes (n : Millis) (l : List ClockMove) : (endDelay n l s).rspTakes = s.rspTakes := rfl
@[simp] theorem endDelay_afterResets (n : Millis) (l : List ClockMove) :
    (endDelay n l s).afterResets = s.afterResets := rfl
@[simp] theorem endDelay_trace (n : Millis) (l : List ClockMove) : (endDelay n l s).trace = s.trace ++ [.delay n] :=
  rfl

@[simp] theorem latch_mode (i : Instr) : (latch i s).mode = s.mode := rfl
@[simp] theorem latch_ctrl (i : Instr) : (latch i s).ctrl = s.ctrl := rfl
@[simp] theorem latch_addrLcd (i : Instr) : (latch i s).addrLcd = s.addrLcd := rfl
@[simp] theorem latch_addrRgb (i : Instr) : (latch i s).addrRgb = s.addrRgb := rfl
@[simp] theorem latch_showFunction (i : Instr) : (latch i s).showFunction = s.showFunction := rfl
@[simp] theorem latch_busy (i : Instr) : (latch i s).busy = true := rfl
@[simp] theorem latch_op (i : Instr) : (latch i s).op = i := rfl
@[simp] theorem latch_upc (i : Instr) : (latch i s).upc = 0 := rfl
@[simp] theorem latch_sidx (i : Instr) : (latch i s).sidx = 0 := rfl
@[simp] theorem latch_held (i : Instr) : (latch i s).held = s.held := rfl
@[simp] theorem latch_pkt (i : Instr) : (latch i s).pkt = s.pkt := rfl
@[simp] theorem latch_pend (i : Instr) : (latch i s).pend = s.pend := rfl
@[simp] theorem latch_bytes (i : Instr) : (latch i s).bytes = s.bytes := rfl
@[simp] theorem latch_busMoves (i : Instr) : (latch i s).busMoves = s.busMoves := rfl
@[simp] theorem latch_clockMoves (i : Instr) : (latch i s).clockMoves = s.clockMoves := rfl
@[simp] theorem latch_rspTakes (i : Instr) : (latch i s).rspTakes = s.rspTakes := rfl
@[simp] theorem latch_afterResets (i : Instr) : (latch i s).afterResets = s.afterResets := rfl
@[simp] theorem latch_trace (i : Instr) : (latch i s).trace = s.trace := rfl

@[simp] theorem applyReset_mode (i : Inputs) (l : List Inputs) : (applyReset i l s).mode = .uninitialized := rfl
@[simp] theorem applyReset_ctrl (i : Inputs) (l : List Inputs) : (applyReset i l s).ctrl = 0#3 := rfl
@[simp] theorem applyReset_addrLcd (i : Inputs) (l : List Inputs) : (applyReset i l s).addrLcd = s.addrLcd := rfl
@[simp] theorem applyReset_addrRgb (i : Inputs) (l : List Inputs) : (applyReset i l s).addrRgb = s.addrRgb := rfl
@[simp] theorem applyReset_showFunction (i : Inputs) (l : List Inputs) :
    (applyReset i l s).showFunction = s.showFunction := rfl
@[simp] theorem applyReset_busy (i : Inputs) (l : List Inputs) : (applyReset i l s).busy = false := rfl
@[simp] theorem applyReset_op (i : Inputs) (l : List Inputs) : (applyReset i l s).op = s.op := rfl
@[simp] theorem applyReset_upc (i : Inputs) (l : List Inputs) : (applyReset i l s).upc = s.upc := rfl
@[simp] theorem applyReset_sidx (i : Inputs) (l : List Inputs) : (applyReset i l s).sidx = s.sidx := rfl
@[simp] theorem applyReset_held (i : Inputs) (l : List Inputs) : (applyReset i l s).held = s.held := rfl
@[simp] theorem applyReset_pkt (i : Inputs) (l : List Inputs) : (applyReset i l s).pkt = [] := rfl
@[simp] theorem applyReset_pend (i : Inputs) (l : List Inputs) : (applyReset i l s).pend = none := rfl
@[simp] theorem applyReset_bytes (i : Inputs) (l : List Inputs) : (applyReset i l s).bytes = i.bytes := rfl
@[simp] theorem applyReset_busMoves (i : Inputs) (l : List Inputs) : (applyReset i l s).busMoves = i.busMoves := rfl
@[simp] theorem applyReset_clockMoves (i : Inputs) (l : List Inputs) : (applyReset i l s).clockMoves = i.clockMoves :=
  rfl
@[simp] theorem applyReset_rspTakes (i : Inputs) (l : List Inputs) : (applyReset i l s).rspTakes = i.rspTakes := rfl
@[simp] theorem applyReset_afterResets (i : Inputs) (l : List Inputs) : (applyReset i l s).afterResets = l := rfl
@[simp] theorem applyReset_trace (i : Inputs) (l : List Inputs) : (applyReset i l s).trace = s.trace := rfl

/-! Taking a request touches its port and nothing else. -/

/-- What a request that is taken leaves. -/
theorem takeRequest_keeps : ∃ p b c, takeRequest s = { s with pend := p, busMoves := b, clockMoves := c } := by
  unfold takeRequest
  split <;> (try split) <;> exact ⟨_, _, _, rfl⟩

@[simp] theorem takeRequest_mode : (takeRequest s).mode = s.mode := by
  obtain ⟨_, _, _, h⟩ := takeRequest_keeps s; rw [h]
@[simp] theorem takeRequest_ctrl : (takeRequest s).ctrl = s.ctrl := by
  obtain ⟨_, _, _, h⟩ := takeRequest_keeps s; rw [h]
@[simp] theorem takeRequest_addrLcd : (takeRequest s).addrLcd = s.addrLcd := by
  obtain ⟨_, _, _, h⟩ := takeRequest_keeps s; rw [h]
@[simp] theorem takeRequest_addrRgb : (takeRequest s).addrRgb = s.addrRgb := by
  obtain ⟨_, _, _, h⟩ := takeRequest_keeps s; rw [h]
@[simp] theorem takeRequest_showFunction : (takeRequest s).showFunction = s.showFunction := by
  obtain ⟨_, _, _, h⟩ := takeRequest_keeps s; rw [h]
@[simp] theorem takeRequest_busy : (takeRequest s).busy = s.busy := by
  obtain ⟨_, _, _, h⟩ := takeRequest_keeps s; rw [h]
@[simp] theorem takeRequest_op : (takeRequest s).op = s.op := by
  obtain ⟨_, _, _, h⟩ := takeRequest_keeps s; rw [h]
@[simp] theorem takeRequest_upc : (takeRequest s).upc = s.upc := by
  obtain ⟨_, _, _, h⟩ := takeRequest_keeps s; rw [h]
@[simp] theorem takeRequest_sidx : (takeRequest s).sidx = s.sidx := by
  obtain ⟨_, _, _, h⟩ := takeRequest_keeps s; rw [h]
@[simp] theorem takeRequest_held : (takeRequest s).held = s.held := by
  obtain ⟨_, _, _, h⟩ := takeRequest_keeps s; rw [h]
@[simp] theorem takeRequest_pkt : (takeRequest s).pkt = s.pkt := by
  obtain ⟨_, _, _, h⟩ := takeRequest_keeps s; rw [h]
@[simp] theorem takeRequest_bytes : (takeRequest s).bytes = s.bytes := by
  obtain ⟨_, _, _, h⟩ := takeRequest_keeps s; rw [h]
@[simp] theorem takeRequest_rspTakes : (takeRequest s).rspTakes = s.rspTakes := by
  obtain ⟨_, _, _, h⟩ := takeRequest_keeps s; rw [h]
@[simp] theorem takeRequest_afterResets : (takeRequest s).afterResets = s.afterResets := by
  obtain ⟨_, _, _, h⟩ := takeRequest_keeps s; rw [h]
@[simp] theorem takeRequest_trace : (takeRequest s).trace = s.trace := by
  obtain ⟨_, _, _, h⟩ := takeRequest_keeps s; rw [h]

end Sys2Proof.Machine
end

