-- ==== Sys2Proof/Laws/Ops.lean ====
section
/-! SUPPORT. What each shared operation can do, said once: the provers cite these instead of unfolding it. -/

namespace Sys2Proof.Machine

open Host (Outcome)

/-! ## `tryAnswer`, `issueIfFree` -/

@[simp] theorem tryAnswer_ok (s : State) : tryAnswer .ok s = s.nextUpc := rfl

@[simp] theorem tryAnswer_err (e : BusErr) (s : State) : tryAnswer (.err e) s = raise (.busError e) s := rfl

/-- `tryAnswer` moves `upc` on or raises; it does nothing else. -/
theorem tryAnswer_cases (a : Answer) (s : State) :
    (a = .ok ∧ tryAnswer a s = s.nextUpc) ∨ (∃ e, a = .err e ∧ tryAnswer a s = raise (.busError e) s) := by
  cases a <;> simp

theorem issueIfFree_free (t : Table) {s : State} (h : s.pend = none) : issueIfFree t s = t.issue s := by
  simp [issueIfFree, h]

theorem issueIfFree_standing (t : Table) {s : State} {r : Request} (h : s.pend = some r) :
    issueIfFree t s = some s := by
  simp [issueIfFree, h]

/-! ## The moves of the Bus and the Clock -/

section Moves

variable {α : Type}

/-- Answers given to a request that is taken. -/
theorem answersAhead_taken (m : List (PortMove α)) :
    answersAhead true m =
      match firstDone m with
      | some (x, later) => x :: answersAhead false later
      | none => [] := by
  induction m with
  | nil => rfl
  | cons h m ih => cases h <;> simp [answersAhead, firstDone, ih]

/-- Answers given to a request that is still to be taken. -/
theorem answersAhead_offered (m : List (PortMove α)) :
    answersAhead false m =
      match afterReady m with
      | some later => answersAhead true later
      | none => [] := by
  induction m with
  | nil => rfl
  | cons h m ih => cases h <;> simp [answersAhead, afterReady, ih]

/-- An answer ahead of a request to be put is a `ready`, then the answer. -/
theorem answersAhead_cons {m : List (PortMove α)} {x : α} {later : List α} (h : answersAhead false m = x :: later) :
    ∃ l m', afterReady m = some l ∧ firstDone l = some (x, m') ∧ answersAhead false m' = later := by
  rw [answersAhead_offered] at h
  split at h
  · rename_i l hl
    rw [answersAhead_taken] at h
    split at h
    · rename_i y m' hd
      cases h
      exact ⟨l, m', hl, hd, rfl⟩
    · cases h
  · cases h

/-- The same where only the number of answers ahead is known. -/
theorem answersAhead_succ {m : List (PortMove α)} {k : Nat} (h : (answersAhead false m).length = k + 1) :
    ∃ l x m', afterReady m = some l ∧ firstDone l = some (x, m') ∧ (answersAhead false m').length = k := by
  obtain ⟨x, later, hx⟩ := List.exists_cons_of_length_eq_add_one h
  obtain ⟨l, m', hl, hd, hm⟩ := answersAhead_cons hx
  exact ⟨l, x, m', hl, hd, by rw [hm]; simpa [hx] using h⟩

/-- Moves that come later do not change where the first `ready` is. -/
theorem afterReady_append {m l : List (PortMove α)} (h : afterReady m = some l) (more : List (PortMove α)) :
    afterReady (m ++ more) = some (l ++ more) := by
  induction m with
  | nil => cases h
  | cons x m ih => cases x <;> simp_all [afterReady]

/-- Moves that come later do not change which answer is the first. -/
theorem firstDone_append {m l : List (PortMove α)} {x : α} (h : firstDone m = some (x, l))
    (more : List (PortMove α)) : firstDone (m ++ more) = some (x, l ++ more) := by
  induction m with
  | nil => cases h
  | cons y m ih => cases y <;> simp_all [firstDone]

end Moves

/-- The answers a state holds for its writes, where none is taken. -/
theorem busAnswers_free {s : State} (h : s.writeTaken = false) : s.busAnswers = answersAhead false s.busMoves := by
  simp [State.busAnswers, h]

theorem delayEnds_free {s : State} (h : s.delayTaken = false) :
    s.delayEnds = (answersAhead false s.clockMoves).length := by
  simp [State.delayEnds, h]

@[simp] theorem answerWrite_busAnswers (f : Frame) (a : Answer) (m : List BusMove) (s : State) :
    (answerWrite f a m s).busAnswers = answersAhead false m := rfl

@[simp] theorem endDelay_delayEnds (n : Millis) (m : List ClockMove) (s : State) :
    (endDelay n m s).delayEnds = (answersAhead false m).length := rfl

/-! ## `takeRequest` -/

/-- Everything `takeRequest` can do. -/
theorem takeRequest_cases (s : State) :
    (takeRequest s = s) ∨
    (∃ f l, s.pend = some (.write f .offered) ∧ afterReady s.busMoves = some l ∧
      takeRequest s = { s with pend := some (.write f .taken), busMoves := l }) ∨
    (∃ n l, s.pend = some (.delay n .offered) ∧ afterReady s.clockMoves = some l ∧
      takeRequest s = { s with pend := some (.delay n .taken), clockMoves := l }) := by
  unfold takeRequest
  split
  · rename_i f hp
    split
    · rename_i l hl; exact .inr (.inl ⟨f, l, hp, hl, rfl⟩)
    · exact .inl rfl
  · rename_i n hp
    split
    · rename_i l hl; exact .inr (.inr ⟨n, l, hp, hl, rfl⟩)
    · exact .inl rfl
  all_goals exact .inl rfl

/-- A request that is taken has the answers ahead that it had. -/
@[simp] theorem takeRequest_busAnswers (s : State) : (takeRequest s).busAnswers = s.busAnswers := by
  rcases takeRequest_cases s with h | ⟨f, l, hp, hl, h⟩ | ⟨n, l, hp, hl, h⟩ <;> rw [h]
  · simp only [State.busAnswers, State.writeTaken, hp]
    rw [answersAhead_offered s.busMoves, hl]
  · simp only [State.busAnswers, State.writeTaken, hp]

@[simp] theorem takeRequest_delayEnds (s : State) : (takeRequest s).delayEnds = s.delayEnds := by
  rcases takeRequest_cases s with h | ⟨f, l, hp, hl, h⟩ | ⟨n, l, hp, hl, h⟩ <;> rw [h]
  · simp only [State.delayEnds, State.delayTaken, hp]
  · simp only [State.delayEnds, State.delayTaken, hp]
    rw [answersAhead_offered s.clockMoves, hl]

/-! ## `settle` -/

/-- A standing write with an answer ahead is answered. -/
theorem settle_write (t : Table) {s : State} {f : Frame} {ph : Phase} {a : Answer} {later : List Answer}
    (h : s.pend = some (.write f ph)) (ha : s.busAnswers = a :: later) :
    ∃ m, answersAhead false m = later ∧ settle t s = .goesOn (t.answered a (answerWrite f a m s)) := by
  have key : ∀ ms, answersAhead true ms = a :: later →
      ∃ m, answersAhead false m = later ∧ firstDone ms = some (a, m) := by
    intro ms hm
    rw [answersAhead_taken] at hm
    split at hm
    · rename_i x l hd
      cases hm
      exact ⟨l, rfl, hd⟩
    · cases hm
  cases ph with
  | taken =>
    simp only [State.busAnswers, State.writeTaken, h] at ha
    obtain ⟨m, hm, hd⟩ := key _ ha
    exact ⟨m, hm, by simp [settle, takeRequest, h, hd]⟩
  | offered =>
    simp only [State.busAnswers, State.writeTaken, h] at ha
    rw [answersAhead_offered] at ha
    split at ha
    · rename_i l hl
      obtain ⟨m, hm, hd⟩ := key _ ha
      exact ⟨m, hm, by simp [settle, takeRequest, h, hl, hd, answerWrite]⟩
    · cases ha

/-- A standing delay with an end ahead is over. -/
theorem settle_delay (t : Table) {s : State} {n : Millis} {ph : Phase} {k : Nat}
    (h : s.pend = some (.delay n ph)) (hk : s.delayEnds = k + 1) :
    ∃ m, (answersAhead false m).length = k ∧ settle t s = .goesOn (t.delayOver (endDelay n m s)) := by
  have key : ∀ ms : List ClockMove, (answersAhead true ms).length = k + 1 →
      ∃ m, (answersAhead false m).length = k ∧ firstDone ms = some ((), m) := by
    intro ms hm
    rw [answersAhead_taken] at hm
    split at hm
    · rename_i x l hd
      exact ⟨l, by simpa using hm, hd⟩
    · cases hm
  cases ph with
  | taken =>
    simp only [State.delayEnds, State.delayTaken, h] at hk
    obtain ⟨m, hm, hd⟩ := key _ hk
    exact ⟨m, hm, by simp [settle, takeRequest, h, hd]⟩
  | offered =>
    simp only [State.delayEnds, State.delayTaken, h] at hk
    rw [answersAhead_offered] at hk
    split at hk
    · rename_i l hl
      obtain ⟨m, hm, hd⟩ := key _ hk
      exact ⟨m, hm, by simp [settle, takeRequest, h, hl, hd, endDelay]⟩
    · cases hk

theorem settle_response (t : Table) {s : State} {r : Response} {later : Nat}
    (h : s.pend = some (.response r)) (hr : s.rspTakes = later + 1) :
    settle t s = .ended (giveResponse r { s with rspTakes := later }) := by
  simp [settle, takeRequest, h, hr]

/-- Everything `settle` can do. -/
theorem settle_cases (t : Table) (s : State) :
    (settle t s = .waits (takeRequest s) ∧ (s.pend = none ∨ (takeRequest s).waits = true)) ∨
    (∃ f ph a m, s.pend = some (.write f ph) ∧ s.busAnswers = a :: answersAhead false m ∧
      settle t s = .goesOn (t.answered a (answerWrite f a m s))) ∨
    (∃ n ph m, s.pend = some (.delay n ph) ∧ s.delayEnds = (answersAhead false m).length + 1 ∧
      settle t s = .goesOn (t.delayOver (endDelay n m s))) ∨
    (∃ r later, s.pend = some (.response r) ∧ s.rspTakes = later + 1 ∧
      settle t s = .ended (giveResponse r { s with rspTakes := later })) := by
  cases hp : s.pend with
  | none => simp [settle, takeRequest, hp]
  | some q =>
    cases q with
    | write f ph =>
      cases hb : s.busAnswers with
      | cons a later =>
        obtain ⟨m, hm, h⟩ := settle_write t hp hb
        exact .inr (.inl ⟨f, ph, a, m, rfl, by rw [hm], h⟩)
      | nil =>
        refine .inl ?_
        cases ph <;> simp only [State.busAnswers, State.writeTaken, hp] at hb
        · rw [answersAhead_offered] at hb
          cases hr : afterReady s.busMoves with
          | none => simp [settle, takeRequest, hp, hr, State.waits]
          | some l =>
            simp only [hr, answersAhead_taken] at hb
            cases hd : firstDone l with
            | none => simp [settle, takeRequest, hp, hr, hd, State.waits]
            | some _ => simp [hd] at hb
        · rw [answersAhead_taken] at hb
          cases hd : firstDone s.busMoves with
          | none => simp [settle, takeRequest, hp, hd, State.waits]
          | some _ => simp [hd] at hb
    | delay n ph =>
      cases hk : s.delayEnds with
      | succ k =>
        obtain ⟨m, hm, h⟩ := settle_delay t hp hk
        exact .inr (.inr (.inl ⟨n, ph, m, rfl, by rw [hm], h⟩))
      | zero =>
        refine .inl ?_
        cases ph <;> simp only [State.delayEnds, State.delayTaken, hp, List.length_eq_zero_iff] at hk
        · rw [answersAhead_offered] at hk
          cases hr : afterReady s.clockMoves with
          | none => simp [settle, takeRequest, hp, hr, State.waits]
          | some l =>
            simp only [hr, answersAhead_taken] at hk
            cases hd : firstDone l with
            | none => simp [settle, takeRequest, hp, hr, hd, State.waits]
            | some _ => simp [hd] at hk
        · rw [answersAhead_taken] at hk
          cases hd : firstDone s.clockMoves with
          | none => simp [settle, takeRequest, hp, hd, State.waits]
          | some _ => simp [hd] at hk
    | response r => cases hr : s.rspTakes <;> simp [settle, takeRequest, hp, hr, State.waits]

/-! ## `run` -/

@[simp] theorem run_zero (t : Table) (s : State) : run t 0 s = .next s := rfl

/-- One micro-step answered: `run` goes on with the rest. -/
theorem run_goesOn (t : Table) (n : Nat) {s s1 s2 : State} (hi : issueIfFree t s = some s1)
    (hs : settle t s1 = .goesOn s2) : run t (n + 1) s = run t n s2 := by
  simp [run, hi, hs]

theorem run_waits (t : Table) (n : Nat) {s s1 s2 : State} (hi : issueIfFree t s = some s1)
    (hs : settle t s1 = .waits s2) : run t (n + 1) s = .next s2 := by
  simp [run, hi, hs]

theorem run_ended (t : Table) (n : Nat) {s s1 s2 : State} (hi : issueIfFree t s = some s1)
    (hs : settle t s1 = .ended s2) : run t (n + 1) s = .next s2 := by
  simp [run, hi, hs]

/-- Induction over a run, packaged once: `P` is what the rows of the table, a request that is taken, and what follows an
answer or a delay keep, `Q` what the response gives (the run ends there). -/
theorem run_keeps (t : Table) (P Q : State → Prop)
    (hissue : ∀ s s1, P s → s.pend = none → t.issue s = some s1 → P s1)
    (htake : ∀ s, P s → P (takeRequest s))
    (hwrite : ∀ s f ph a m, P s → s.pend = some (.write f ph) → s.busAnswers = a :: answersAhead false m →
      P (t.answered a (answerWrite f a m s)))
    (hdelay : ∀ s n ph m, P s → s.pend = some (.delay n ph) → s.delayEnds = (answersAhead false m).length + 1 →
      P (t.delayOver (endDelay n m s)))
    (hresp : ∀ s r later, P s → s.pend = some (.response r) → s.rspTakes = later + 1 →
      Q (giveResponse r { s with rspTakes := later })) :
    ∀ n s s', P s → run t n s = .next s' → P s' ∨ Q s' := by
  intro n
  induction n with
  | zero => intro s s' hP h; simp at h; exact .inl (h ▸ hP)
  | succ n ih =>
    intro s s' hP h
    have hP1 : ∀ s1, issueIfFree t s = some s1 → P s1 := by
      intro s1 h1
      cases hp : s.pend with
      | none => exact hissue s s1 hP hp (by rwa [issueIfFree_free t hp] at h1)
      | some q => rw [issueIfFree_standing t hp] at h1; cases h1; exact hP
    cases h1 : issueIfFree t s with
    | none => simp [run, h1] at h
    | some s1 =>
      have hP1 := hP1 s1 h1
      rcases settle_cases t s1 with ⟨h2, -⟩ | ⟨f, ph, a, l, hp, hb, h2⟩ | ⟨m, ph, l, hp, hd, h2⟩ | ⟨r, l, hp, hr, h2⟩
      · rw [run_waits t n h1 h2] at h; cases h; exact .inl (htake _ hP1)
      · rw [run_goesOn t n h1 h2] at h; exact ih _ _ (hwrite _ _ _ _ _ hP1 hp hb) h
      · rw [run_goesOn t n h1 h2] at h; exact ih _ _ (hdelay _ _ _ _ hP1 hp hd) h
      · rw [run_ended t n h1 h2] at h; cases h; exact .inr (hresp _ _ _ hP1 hp hr)

/-! ## `accept`, `operate` -/

theorem accept_admitted {m : Mode} {i : Instr} {s : State} (h : s.mode = m) :
    accept m i s = (latch i s).emit (.op i) := by
  simp [accept, h]

theorem accept_refused {m : Mode} {i : Instr} {s : State} (h : s.mode ≠ m) :
    accept m i s = raise .invalidState ((latch i s).emit (.op i)) := by
  simp [accept, h]

/-- Everything acceptance can do. -/
theorem accept_cases (m : Mode) (i : Instr) (s : State) :
    ∃ p, accept m i s = { latch i s with trace := s.trace ++ [.op i], pend := p } ∧
      (s.mode = m ∧ p = s.pend ∨ s.mode ≠ m ∧ p = some (.response .invalidState)) := by
  by_cases h : s.mode = m
  · exact ⟨_, accept_admitted h, .inl ⟨h, rfl⟩⟩
  · exact ⟨_, accept_refused h, .inr ⟨h, rfl⟩⟩

theorem operate_idle {i : Instr} {acc : State → State} {t : Table} {n : Nat} {s : State} (hb : s.busy = false)
    (hp : s.pend = none) : operate i acc t n s = run t n (acc s) := by
  simp [operate, hb, hp]

theorem operate_running {i : Instr} {acc : State → State} {t : Table} {n : Nat} {s : State} (hb : s.busy = true)
    (ho : s.op = i) : operate i acc t n s = run t n s := by
  simp [operate, hb, ho]

/-- Everything `operate` can do. -/
theorem operate_cases (i : Instr) (acc : State → State) (t : Table) (n : Nat) (s : State) :
    (s.busy = true ∧ s.op = i ∧ operate i acc t n s = run t n s) ∨
    (s.busy = false ∧ s.pend = none ∧ operate i acc t n s = run t n (acc s)) ∨
    (operate i acc t n s = .next s) := by
  cases hb : s.busy with
  | true => by_cases ho : s.op = i <;> simp [operate, hb, ho]
  | false => cases hp : s.pend <;> simp [operate, hb, hp]

/-! ## `transact` -/

theorem react_idle (a : Answer) {s : State} (h : s.busy = false) : react a s = s := by simp [react, h]

theorem react_running (a : Answer) {s : State} {t : Table} (h : s.busy = true) (ht : tableOf s.op = some t) :
    react a s = t.answered a s := by simp [react, h, ht]

/-- `answerFrame` is `settle` of the frame that stands, with the answer going to the running operation. -/
theorem answerFrame_cases {f : Frame} {ph : Phase} {s : State} (hp : s.pend = some (.write f ph)) :
    (s.busAnswers = [] ∧ answerFrame f s = takeRequest s ∧ (takeRequest s).waits = true) ∨
    (∃ a m, s.busAnswers = a :: answersAhead false m ∧ answerFrame f s = react a (answerWrite f a m s)) := by
  cases ph <;> simp only [State.busAnswers, State.writeTaken, hp]
  · rw [answersAhead_offered]
    cases hr : afterReady s.busMoves with
    | none => simp [answerFrame, takeRequest, hp, hr, State.writeTaken, State.waits]
    | some l =>
      simp only [answersAhead_taken]
      cases hd : firstDone l with
      | none => simp [answerFrame, takeRequest, hp, hr, hd, State.writeTaken, State.waits]
      | some x =>
        obtain ⟨a, m⟩ := x
        exact .inr ⟨a, m, rfl, by simp [answerFrame, takeRequest, hp, hr, hd, State.writeTaken, answerWrite]⟩
  · rw [answersAhead_taken]
    cases hd : firstDone s.busMoves with
    | none => simp [answerFrame, takeRequest, hp, hd, State.writeTaken, State.waits]
    | some x =>
      obtain ⟨a, m⟩ := x
      exact .inr ⟨a, m, rfl, by simp [answerFrame, takeRequest, hp, hd, State.writeTaken, answerWrite]⟩

/-- Where a frame stands at its port, or the port is free and no operation runs, it is at the port: `transact` answers it. -/
theorem transact_standing {f : Frame} {ph : Phase} {s : State} (hp : s.pend = some (.write f ph)) :
    transact f s = answerFrame f s := by
  simp [transact, standsAs, hp]

theorem transact_idle {f : Frame} {s : State} (hp : s.pend = none) (hb : s.busy = false) :
    transact f s = answerFrame f (sendFrame f s) := by
  simp [transact, standsAs, hp, hb]

/-- Everything `transact` can do. -/
theorem transact_cases (f : Frame) (s : State) :
    (transact f s = s ∧ (∀ ph, s.pend ≠ some (.write f ph)) ∧ (s.pend ≠ none ∨ s.busy = true)) ∨
    (∃ s0, ((∃ ph, s0 = s ∧ s.pend = some (.write f ph)) ∨ (s0 = sendFrame f s ∧ s.pend = none ∧ s.busy = false)) ∧
      ((s0.busAnswers = [] ∧ transact f s = takeRequest s0 ∧ (takeRequest s0).waits = true) ∨
       (∃ a m, s0.busAnswers = a :: answersAhead false m ∧ transact f s = react a (answerWrite f a m s)))) := by
  by_cases hs : ∃ ph, s.pend = some (.write f ph)
  · obtain ⟨ph, hp⟩ := hs
    rw [transact_standing hp]
    exact .inr ⟨s, .inl ⟨ph, rfl, hp⟩, answerFrame_cases hp⟩
  · by_cases hi : s.pend = none ∧ s.busy = false
    · rw [transact_idle hi.1 hi.2]
      refine .inr ⟨sendFrame f s, .inr ⟨rfl, hi⟩, ?_⟩
      rcases answerFrame_cases (f := f) (s := sendFrame f s) rfl with h | ⟨a, m, ha, h⟩
      · exact .inl h
      · exact .inr ⟨a, m, ha, h⟩
    · refine .inl ⟨?_, fun ph hp => hs ⟨ph, hp⟩, ?_⟩
      · have h1 : standsAs f s = false := by
          cases hp : s.pend with
          | none => simp [standsAs, hp]
          | some q =>
            cases q with
            | write g ph =>
              simp only [standsAs, hp, beq_eq_false_iff_ne, ne_eq]
              rintro rfl
              exact hs ⟨ph, hp⟩
            | delay n ph => simp [standsAs, hp]
            | response r => simp [standsAs, hp]
        have h2 : (s.pend.isNone && !s.busy) = false := by
          cases hp : s.pend <;> cases hb : s.busy <;> simp_all
        simp [transact, h1, h2]
      · cases hp : s.pend <;> cases hb : s.busy <;> simp_all

end Sys2Proof.Machine
end

