-- ==== Sys2Proof/Laws/PerInstr.lean ====
section
/-! SUPPORT. A law per instruction: how many bytes its encoding has (R60, R63 for packets; R31, R42 for frames). -/

namespace Sys2Proof.Laws.EncodeLength

/-- A well-formed packet has 1 to 257 bytes (R63); a frame has exactly two (R42). -/
def Statement (i : Instr) : Prop :=
  i.wf = true → 1 ≤ (encode i).length ∧ (encode i).length ≤ 257 ∧ (i.layer ≠ .host → (encode i).length = 2)

theorem init : Statement .init := by simp [Statement, encode, Instr.layer]

theorem clear : Statement .clear := by simp [Statement, encode, Instr.layer]

theorem setDisplay (n : Bool) : Statement (.setDisplay n) := by simp [Statement, encode, Instr.layer]

theorem setCursor (n : Bool) : Statement (.setCursor n) := by simp [Statement, encode, Instr.layer]

theorem setBlink (n : Bool) : Statement (.setBlink n) := by simp [Statement, encode, Instr.layer]

theorem setCursorPosition (col : Byte) (w : Bool) : Statement (.setCursorPosition col w) := by simp [Statement, encode, Instr.layer]

theorem writeChar (c : Byte) : Statement (.writeChar c) := by simp [Statement, encode, Instr.layer]

theorem writeStr (str : List Byte) : Statement (.writeStr str) := by
  intro h
  simp only [Instr.wf, decide_eq_true_eq] at h
  simp only [encode, Instr.layer, List.length_cons, ne_eq, not_true_eq_false, false_implies, and_true]
  omega

theorem setRgb (r g b : Byte) : Statement (.setRgb r g b) := by simp [Statement, encode, Instr.layer]

theorem illegal (byte0 : Byte) : Statement (.illegal byte0) := by simp [Statement, encode, Instr.layer]

theorem lcdClear : Statement .lcdClear := by simp [Statement, encode, Instr.layer]

theorem lcdEntryMode : Statement .lcdEntryMode := by simp [Statement, encode, Instr.layer]

theorem lcdControl (d c b : Bool) : Statement (.lcdControl d c b) := by simp [Statement, encode, Instr.layer]

theorem lcdFunctionSet : Statement .lcdFunctionSet := by simp [Statement, encode, Instr.layer]

theorem lcdSetDdram (a : BitVec 7) : Statement (.lcdSetDdram a) := by simp [Statement, encode, Instr.layer]

theorem lcdData (c : Byte) : Statement (.lcdData c) := by simp [Statement, encode, Instr.layer]

theorem rgbMode1 : Statement .rgbMode1 := by simp [Statement, encode, Instr.layer]

theorem rgbLedout : Statement .rgbLedout := by simp [Statement, encode, Instr.layer]

theorem rgbMode2 : Statement .rgbMode2 := by simp [Statement, encode, Instr.layer]

theorem rgbRed (v : Byte) : Statement (.rgbRed v) := by simp [Statement, encode, Instr.layer]

theorem rgbGreen (v : Byte) : Statement (.rgbGreen v) := by simp [Statement, encode, Instr.layer]

theorem rgbBlue (v : Byte) : Statement (.rgbBlue v) := by simp [Statement, encode, Instr.layer]

end Sys2Proof.Laws.EncodeLength
end

