-- ==== Sys2Proof/Laws/Tables.lean ====
section
/-! SUPPORT. What the step tables and `exec` can do, said once for all instructions. -/

namespace Sys2Proof.Machine

/-- The number of micro-steps a meaning allows its operation (R148). -/
def microSteps : Instr → Nat
  | .init => 14
  | .clear => 3
  | .setRgb _ _ _ => 4
  | .writeStr str => str.length + 1
  | .setDisplay _ | .setCursor _ | .setBlink _ | .setCursorPosition _ _ | .writeChar _ => 2
  | .illegal _ => 1
  | .lcdClear | .lcdEntryMode | .lcdControl _ _ _ | .lcdFunctionSet | .lcdSetDdram _ | .lcdData _ => 1
  | .rgbMode1 | .rgbLedout | .rgbMode2 | .rgbRed _ | .rgbGreen _ | .rgbBlue _ => 1

/-- The meaning of a host instruction is `operate` over its own table. -/
theorem exec_operates (i : Instr) (hl : i.layer = .host) :
    ∃ t acc, tableOf i = some t ∧ (∀ s, exec i s = operate i acc t (microSteps i) s) ∧
      ((∃ m, requiredMode i = some m ∧ acc = accept m i) ∨ (requiredMode i = none ∧ acc = acceptIllegal i)) := by
  cases i <;> simp only [Instr.layer, reduceCtorEq] at hl
  case illegal b => exact ⟨_, _, rfl, fun _ => rfl, .inr ⟨rfl, rfl⟩⟩
  all_goals exact ⟨_, _, rfl, fun _ => rfl, .inl ⟨_, rfl, rfl⟩⟩

/-- The meaning of a frame is one bus write of a frame that depends on the constants alone. -/
theorem exec_sends (i : Instr) (hl : i.layer ≠ .host) :
    ∃ fr : State → Frame, ∀ s, exec i s = .next (transact (fr s) s) := by
  cases i <;> simp only [Instr.layer, ne_eq, not_true_eq_false, reduceCtorEq, not_false_eq_true] at hl
  all_goals exact ⟨_, fun _ => rfl⟩

/-- A request that has just been put: the Bus or the Clock has not taken it. -/
def Request.fresh (q : Request) : Prop := (∀ f, q ≠ .write f .taken) ∧ ∀ n, q ≠ .delay n .taken

@[simp] theorem fresh_write (f : Frame) : (Request.write f .offered).fresh := ⟨by simp, by simp⟩

@[simp] theorem fresh_delay (n : Millis) : (Request.delay n .offered).fresh := ⟨by simp, by simp⟩

@[simp] theorem fresh_response (r : Response) : (Request.response r).fresh := ⟨by simp, by simp⟩

/-- A state whose request is fresh, or that has none, has none taken. -/
theorem not_taken_of_fresh {s : State} (h : ∀ q, s.pend = some q → q.fresh) :
    s.writeTaken = false ∧ s.delayTaken = false := by
  cases hp : s.pend with
  | none => simp [State.writeTaken, State.delayTaken, hp]
  | some q =>
    obtain ⟨h1, h2⟩ := h q hp
    cases q with
    | write f ph => cases ph <;> simp_all [State.writeTaken, State.delayTaken]
    | delay n ph => cases ph <;> simp_all [State.writeTaken, State.delayTaken]
    | response r => simp [State.writeTaken, State.delayTaken, hp]

/-- A row puts one request at a port and writes nothing but MODE and CTRL; MODE only by INIT's last row. -/
theorem issue_cases {i : Instr} {t : Table} (ht : tableOf i = some t) {s s1 : State} (h : t.issue s = some s1) :
    ∃ q m c, s1 = { s with pend := some q, mode := m, ctrl := c } ∧ q.fresh ∧
      (m = s.mode ∨ (i = .init ∧ s.upc = 13 ∧ m = .ready ∧ q = .response .ok)) := by
  cases i <;> simp only [tableOf, reduceCtorEq, Option.some.injEq] at ht <;> subst ht
  case init =>
    simp only [initTable, initIssue] at h
    split at h <;> simp only [Option.some.injEq, reduceCtorEq] at h <;> subst h
    case h_14 hu => exact ⟨_, _, _, rfl, by simp, .inr ⟨rfl, hu, rfl, rfl⟩⟩
    all_goals exact ⟨_, _, _, rfl, by simp, .inl rfl⟩
  case clear =>
    simp only [clearTable, clearIssue] at h
    split at h <;> (try split at h) <;> simp only [Option.some.injEq, reduceCtorEq] at h <;> subst h
    all_goals exact ⟨_, _, _, rfl, by simp, .inl rfl⟩
  case writeStr str =>
    simp only [writeStrTable, writeStrIssue] at h
    split at h <;> (try split at h) <;> simp only [Option.some.injEq, reduceCtorEq] at h <;> subst h
    all_goals exact ⟨_, _, _, rfl, by simp, .inl rfl⟩
  case setRgb r g b =>
    simp only [setRgbTable, setRgbIssue] at h
    split at h <;> simp only [Option.some.injEq, reduceCtorEq] at h <;> subst h
    all_goals exact ⟨_, _, _, rfl, by simp, .inl rfl⟩
  case illegal b =>
    simp only [illegalTable, Option.some.injEq] at h
    subst h
    exact ⟨_, _, _, rfl, by simp, .inl rfl⟩
  all_goals
    simp only [flagTable, setCursorPositionTable, writeCharTable, oneWriteTable, id] at h
    split at h <;> simp only [Option.some.injEq, reduceCtorEq] at h <;> subst h
    all_goals exact ⟨_, _, _, rfl, by simp, .inl rfl⟩

/-- What follows an answer touches only the sequencer and, where it aborts, the response port. -/
theorem answered_cases {i : Instr} {t : Table} (ht : tableOf i = some t) (a : Answer) (s : State) :
    ∃ p u x h, t.answered a s = { s with pend := p, upc := u, sidx := x, held := h } ∧
      (p = s.pend ∨ ∃ e, a = .err e ∧ p = some (.response (.busError e))) := by
  cases i <;> simp only [tableOf, reduceCtorEq, Option.some.injEq] at ht <;> subst ht
  case init =>
    simp only [initTable, initAnswered]
    split
    · exact ⟨_, _, _, _, rfl, .inl rfl⟩
    · cases a <;> exact ⟨_, _, _, _, rfl, by simp⟩
  case clear => exact ⟨_, _, _, _, rfl, .inl rfl⟩
  all_goals cases a <;> exact ⟨_, _, _, _, rfl, by simp⟩

/-- What follows a delay touches only `upc` and, where INIT aborts on the held answer, the response port. -/
theorem delayOver_cases {i : Instr} {t : Table} (ht : tableOf i = some t) (s : State) :
    ∃ p u, t.delayOver s = { s with pend := p, upc := u } ∧
      (p = s.pend ∨ ∃ e, s.held = .err e ∧ p = some (.response (.busError e))) := by
  cases i <;> simp only [tableOf, reduceCtorEq, Option.some.injEq] at ht <;> subst ht
  case init =>
    simp only [initTable, initDelayOver]
    split
    · rcases tryAnswer_cases s.held s with ⟨_, h⟩ | ⟨e, he, h⟩ <;> rw [h]
      · exact ⟨_, _, rfl, .inl rfl⟩
      · exact ⟨_, _, rfl, .inr ⟨e, he, rfl⟩⟩
    · exact ⟨_, _, rfl, .inl rfl⟩
  all_goals exact ⟨_, _, rfl, .inl rfl⟩

/-- `s` with other inputs and another record. -/
def State.withInputs (x : Inputs) (rs : List Inputs) (tr : List Event) (s : State) : State :=
  { s with
    bytes := x.bytes, busMoves := x.busMoves, clockMoves := x.clockMoves, rspTakes := x.rspTakes, afterResets := rs,
    trace := tr }

/-- A row looks at no input: with other inputs it puts the same request and makes the same update. -/
theorem issue_inputs {i : Instr} {t : Table} (ht : tableOf i = some t) (x : Inputs) (rs : List Inputs)
    (tr : List Event) (s : State) : t.issue (s.withInputs x rs tr) = (t.issue s).map (·.withInputs x rs tr) := by
  cases i <;> simp only [tableOf, reduceCtorEq, Option.some.injEq] at ht <;> subst ht
  case init =>
    simp only [initTable, initIssue, State.withInputs]
    split <;> rfl
  case clear =>
    simp only [clearTable, clearIssue, State.withInputs]
    split <;> (try split) <;> rfl
  case writeStr str =>
    simp only [writeStrTable, writeStrIssue, State.withInputs]
    split <;> (try split) <;> rfl
  case setRgb r g b =>
    simp only [setRgbTable, setRgbIssue, State.withInputs]
    split <;> rfl
  case illegal b => rfl
  all_goals
    simp only [flagTable, setCursorPositionTable, writeCharTable, oneWriteTable, State.withInputs]
    split <;> rfl

/-- What follows an answer looks at no input but the answer. -/
theorem answered_inputs {i : Instr} {t : Table} (ht : tableOf i = some t) (x : Inputs) (rs : List Inputs)
    (tr : List Event) (a : Answer) (s : State) :
    t.answered a (s.withInputs x rs tr) = (t.answered a s).withInputs x rs tr := by
  cases i <;> simp only [tableOf, reduceCtorEq, Option.some.injEq] at ht <;> subst ht
  case init =>
    simp only [initTable, initAnswered, State.withInputs]
    split <;> cases a <;> rfl
  all_goals cases a <;> rfl

/-- What follows a delay looks at no input. -/
theorem delayOver_inputs {i : Instr} {t : Table} (ht : tableOf i = some t) (x : Inputs) (rs : List Inputs)
    (tr : List Event) (s : State) : t.delayOver (s.withInputs x rs tr) = (t.delayOver s).withInputs x rs tr := by
  cases i <;> simp only [tableOf, reduceCtorEq, Option.some.injEq] at ht <;> subst ht
  case init =>
    simp only [initTable, initDelayOver, State.withInputs]
    split
    · unfold tryAnswer
      split <;> rfl
    · rfl
  all_goals rfl

/-- `react` touches only the sequencer and the response port. -/
theorem react_cases (a : Answer) (s : State) :
    ∃ p u x h, react a s = { s with pend := p, upc := u, sidx := x, held := h } ∧
      (p = s.pend ∨ ∃ e, a = .err e ∧ p = some (.response (.busError e))) := by
  unfold react
  split
  · split
    · rename_i t ht; exact answered_cases ht a s
    · exact ⟨_, _, _, _, rfl, .inl rfl⟩
  · exact ⟨_, _, _, _, rfl, .inl rfl⟩

/-- Induction over an operation, packaged once for all host instructions: the meaning waits, changing nothing, or a
property `P` that the state it is taken up in has (or that acceptance gives), and that rows, requests taken, answers and
delays keep, holds after it, or `Q`, which the response gives. -/
theorem exec_host_keeps (i : Instr) (hl : i.layer = .host) (P Q : State → Prop) {s s' : State}
    (hs : s.busy = true → s.op = i → P s)
    (haccept : ∀ m, requiredMode i = some m → s.busy = false → s.pend = none → P (accept m i s))
    (hillegal : requiredMode i = none → s.busy = false → s.pend = none → P (acceptIllegal i s))
    (hissue : ∀ s0 q m c, P s0 → s0.pend = none → q.fresh →
      (m = s0.mode ∨ (i = .init ∧ s0.upc = 13 ∧ m = .ready ∧ q = .response .ok)) →
      P { s0 with pend := some q, mode := m, ctrl := c })
    (htake : ∀ s0, P s0 → P (takeRequest s0))
    (hwrite : ∀ s0 f ph a m p u x h, P s0 → s0.pend = some (.write f ph) →
      s0.busAnswers = a :: answersAhead false m →
      (p = none ∨ ∃ e, a = .err e ∧ p = some (.response (.busError e))) →
      P { answerWrite f a m s0 with pend := p, upc := u, sidx := x, held := h })
    (hdelay : ∀ s0 n ph m p u, P s0 → s0.pend = some (.delay n ph) →
      s0.delayEnds = (answersAhead false m).length + 1 →
      (p = none ∨ ∃ e, s0.held = .err e ∧ p = some (.response (.busError e))) →
      P { endDelay n m s0 with pend := p, upc := u })
    (hresp : ∀ s0 r later, P s0 → s0.pend = some (.response r) → s0.rspTakes = later + 1 →
      Q (giveResponse r { s0 with rspTakes := later }))
    (h : exec i s = .next s') : s' = s ∨ P s' ∨ Q s' := by
  obtain ⟨t, acc, ht, he, hacc⟩ := exec_operates i hl
  rw [he] at h
  have hrun : ∀ n s0 s1, P s0 → run t n s0 = .next s1 → P s1 ∨ Q s1 := by
    apply run_keeps t P Q
    · intro s0 s1 h0 hp h1
      obtain ⟨q, m, c, rfl, hq, hm⟩ := issue_cases ht h1
      exact hissue s0 q m c h0 hp hq hm
    · exact htake
    · intro s0 f ph a m h0 hp0 ha
      obtain ⟨p, u, x, hd, heq, hp⟩ := answered_cases ht a (answerWrite f a m s0)
      rw [heq]
      exact hwrite s0 f ph a m p u x hd h0 hp0 ha hp
    · intro s0 n ph m h0 hp0 hd
      obtain ⟨p, u, heq, hp⟩ := delayOver_cases ht (endDelay n m s0)
      rw [heq]
      exact hdelay s0 n ph m p u h0 hp0 hd hp
    · intro s0 r later h0 hp hr
      exact hresp s0 r later h0 hp hr
  rcases operate_cases i acc t (microSteps i) s with ⟨hb, ho, h1⟩ | ⟨hb, hp, h1⟩ | h1
  · exact .inr (hrun _ _ _ (hs hb ho) (h1 ▸ h))
  · refine .inr (hrun _ _ _ ?_ (h1 ▸ h))
    rcases hacc with ⟨m, hm, rfl⟩ | ⟨hm, rfl⟩
    · exact haccept m hm hb hp
    · exact hillegal hm hb hp
  · rw [h1] at h; cases h; exact .inl rfl

/-- A running operation with nothing at its ports puts the request of its row and, where the environment makes no move,
waits there: its meaning is the row. -/
theorem exec_row {i : Instr} {t : Table} {s s1 : State} (hl : i.layer = .host) (ht : tableOf i = some t)
    (hb : s.busy = true) (ho : s.op = i) (hp : s.pend = none) (hm : s.busMoves = []) (hc : s.clockMoves = [])
    (hr : s.rspTakes = 0) (h : t.issue s = some s1) : exec i s = .next s1 := by
  obtain ⟨t', acc, ht', he, -⟩ := exec_operates i hl
  cases ht.symm.trans ht'
  obtain ⟨k, hk⟩ : ∃ k, microSteps i = k + 1 := by cases i <;> simp [microSteps]
  rw [he, operate_running hb ho, hk]
  refine run_waits t k (by rw [issueIfFree_free t hp, h]) ?_
  obtain ⟨q, m, c, rfl, ⟨hw, hd⟩, -⟩ := issue_cases ht h
  cases q with
  | write f ph =>
    cases ph with
    | offered => simp [settle, takeRequest, hm, afterReady]
    | taken => exact absurd rfl (hw f)
  | delay n ph =>
    cases ph with
    | offered => simp [settle, takeRequest, hc, afterReady]
    | taken => exact absurd rfl (hd n)
  | response r => simp [settle, takeRequest, hr]

/-- Everything a frame's meaning can do: nothing; or, the frame standing at its port (in `s0`), to be taken and wait, or to
be answered. -/
theorem exec_frame_cases (i : Instr) (hl : i.layer ≠ .host) {s s' : State} (h : exec i s = .next s') :
    (s' = s) ∨
    (∃ f s0, ((∃ ph, s0 = s ∧ s.pend = some (.write f ph)) ∨
        (s0 = sendFrame f s ∧ s.pend = none ∧ s.busy = false)) ∧
      ((s0.busAnswers = [] ∧ s' = takeRequest s0 ∧ s'.waits = true) ∨
       (∃ a m p u x hd, s0.busAnswers = a :: answersAhead false m ∧
          s' = { answerWrite f a m s with pend := p, upc := u, sidx := x, held := hd } ∧
          (p = none ∨ ∃ e, a = .err e ∧ p = some (.response (.busError e)))))) := by
  obtain ⟨fr, hf⟩ := exec_sends i hl
  rw [hf] at h
  cases h
  rcases transact_cases (fr s) s with ⟨h, -, -⟩ | ⟨s0, h0, ⟨ha, h, hw⟩ | ⟨a, m, ha, h⟩⟩
  · exact .inl h
  · exact .inr ⟨_, s0, h0, .inl ⟨ha, h, h ▸ hw⟩⟩
  · obtain ⟨p, u, x, hd, hr, hp⟩ := react_cases a (answerWrite (fr s) a m s)
    exact .inr ⟨_, s0, h0, .inr ⟨a, m, p, u, x, hd, ha, by rw [h, hr], hp⟩⟩

end Sys2Proof.Machine
end

