-- ==== Sys2Proof/Laws/Step.lean ====
section
/-! SUPPORT. Everything one step can do. -/

namespace Sys2Proof

/-- A packet spells a host instruction. -/
theorem decode_layer {bs rest : List Byte} {i : Instr} (h : decode bs = .ok (i, rest)) : i.layer = .host := by
  cases bs with
  | nil => simp [decode] at h
  | cons b bs =>
    simp only [decode] at h
    repeat' split at h
    all_goals first | (cases h; rfl) | cases h

end Sys2Proof

namespace Sys2Proof.Machine

theorem decodeLcdFrame_layer {sf b0 b1 : Byte} {i : Instr} (h : decodeLcdFrame sf b0 b1 = some i) :
    i.layer = .lcdFrame := by
  simp only [decodeLcdFrame] at h
  repeat' split at h
  all_goals first | (cases h; rfl) | cases h

theorem decodeRgbFrame_layer {b0 b1 : Byte} {i : Instr} (h : decodeRgbFrame b0 b1 = some i) :
    i.layer = .rgbFrame := by
  simp only [decodeRgbFrame] at h
  repeat' split at h
  all_goals first | (cases h; rfl) | cases h

/-- What stands at the Bus port is no host instruction. -/
theorem frameKind_layer {f : Frame} {s : State} {i : Instr} (h : frameKind f s = some i) : i.layer ≠ .host := by
  simp only [frameKind, Option.or_eq_some_iff] at h
  rcases h with h | ⟨-, h⟩ <;> split at h
  · simp [decodeLcdFrame_layer h]
  · cases h
  · simp [decodeRgbFrame_layer h]
  · cases h

/-- A reset that comes is taken. -/
theorem step_reset {s : State} {i : Inputs} {later : List Inputs} (hs : s.stalled = true)
    (h : s.afterResets = i :: later) : step s = .next (applyReset i later s) := by
  simp [step, hs, h]

/-- Where no reset comes, a step is what the block does by itself. -/
theorem step_goOn {s : State} (h : s.resetComes = false) : step s = goOn s := by
  unfold step
  split
  · rename_i hs
    split
    · rename_i i later hl
      simp [State.resetComes, hs, hl] at h
    · rfl
  · rfl

/-- A step is a reset that comes, or what the block does by itself. -/
theorem step_split (s : State) :
    (s.resetComes = true ∧ ∃ i later, s.afterResets = i :: later ∧ step s = .next (applyReset i later s)) ∨
    (s.resetComes = false ∧ step s = goOn s) := by
  cases h : s.resetComes with
  | false => exact .inr ⟨rfl, step_goOn h⟩
  | true =>
    obtain ⟨hs, hr⟩ : s.stalled = true ∧ s.afterResets ≠ [] := by simpa [State.resetComes] using h
    obtain ⟨i, later, hl⟩ := List.exists_cons_of_ne_nil hr
    exact .inl ⟨rfl, i, later, hl, step_reset hs hl⟩

/-- Everything the block can do by itself. -/
theorem goOn_cases {s s' : State} (h : goOn s = .next s') :
    (∃ f ph i, s.pend = some (.write f ph) ∧ frameKind f s = some i ∧ exec i s = .next s') ∨
    ((s.busy = true ∨ s.pend.isSome = true) ∧ (∀ f ph, s.pend ≠ some (.write f ph)) ∧ exec s.op s = .next s') ∨
    (s.busy = false ∧ s.pend = none ∧ ∃ b later i rest, s.bytes = b :: later ∧
      decode (s.pkt ++ [b]) = .ok (i, rest) ∧ exec i { s with bytes := later, pkt := [] } = .next s') ∨
    (s.busy = false ∧ s.pend = none ∧ ∃ b later e, s.bytes = b :: later ∧
      decode (s.pkt ++ [b]) = .error e ∧ s' = { s with bytes := later, pkt := s.pkt ++ [b] }) ∨
    (s.busy = false ∧ s.pend = none ∧ s.bytes = [] ∧ s' = s) := by
  cases hp : s.pend with
  | some q =>
    cases q with
    | write f ph =>
      cases hi : frameKind f s with
      | none => simp [goOn, hp, hi] at h
      | some i => exact .inl ⟨f, ph, i, rfl, hi, by simpa [goOn, hp, hi] using h⟩
    | delay n ph => exact .inr (.inl ⟨.inr rfl, by simp, by simpa [goOn, hp] using h⟩)
    | response r => exact .inr (.inl ⟨.inr rfl, by simp, by simpa [goOn, hp] using h⟩)
  | none =>
    cases hb : s.busy with
    | true => exact .inr (.inl ⟨.inl rfl, by simp, by simpa [goOn, hp, hb] using h⟩)
    | false =>
      refine .inr (.inr ?_)
      cases hm : s.bytes with
      | nil => exact .inr (.inr ⟨rfl, rfl, rfl, by simpa [goOn, hp, hb, hm] using h.symm⟩)
      | cons b later =>
        cases hd : decode (s.pkt ++ [b]) with
        | error e =>
          refine .inr (.inl ⟨rfl, rfl, b, later, e, rfl, hd, ?_⟩)
          simpa [goOn, hp, hb, hm, takeByte, hd] using h.symm
        | ok r =>
          obtain ⟨i, rest⟩ := r
          refine .inl ⟨rfl, rfl, b, later, i, rest, rfl, hd, ?_⟩
          simpa [goOn, hp, hb, hm, takeByte, hd] using h

/-- Everything a step that answers a next state can do. -/
theorem step_cases {s s' : State} (h : step s = .next s') :
    (s.resetComes = true ∧ ∃ i later, s.afterResets = i :: later ∧ s' = applyReset i later s) ∨
    (s.resetComes = false ∧ goOn s = .next s') := by
  rcases step_split s with ⟨hr, i, later, hl, hs⟩ | ⟨hr, hs⟩
  · rw [hs] at h
    cases h
    exact .inl ⟨hr, i, later, hl, rfl⟩
  · exact .inr ⟨hr, hs ▸ h⟩

end Sys2Proof.Machine
end

