-- ==== Sys2Proof/Laws/Safety.lean ====
section
/-! SUPPORT. How a property holds throughout a run: what the premises of R163 are shown by, and used by. -/

namespace Sys2Proof.Machine

/-- A run of one step and then `n`. -/
theorem run_core_succ {s t : State} (h : step s = .next t) (n : Nat) :
    Host.Core.run Sys2Proof.core (n + 1) s = Host.Core.run Sys2Proof.core n t := by
  have h' : Sys2Proof.core.step s = .next t := h
  simp [Host.Core.run, h']

/-- A run that is not over goes through the state after its first step. -/
theorem run_core_next {s t : State} {n : Nat} (h : Host.Core.run Sys2Proof.core (n + 1) s = .next t) :
    ∃ u, step s = .next u ∧ Host.Core.run Sys2Proof.core n u = .next t := by
  cases hs : step s with
  | next u => exact ⟨u, rfl, (run_core_succ hs n).symm.trans h⟩
  | fault r =>
    have hs' : Sys2Proof.core.step s = .fault r := hs
    simp [Host.Core.run, hs'] at h
  | refused r =>
    have hs' : Sys2Proof.core.step s = .refused r := hs
    simp [Host.Core.run, hs'] at h

/-- What holds throughout a run holds where it starts. -/
theorem Throughout.here {P : State → Prop} {s : State} (h : Throughout P s) : P s := h 0 s rfl

/-- What holds throughout a run holds throughout it from its second state on. -/
theorem Throughout.tail {P : State → Prop} {s t : State} (h : Throughout P s) (hs : step s = .next t) :
    Throughout P t := fun n u hu => h (n + 1) u ((run_core_succ hs n).trans hu)

/-- What holds throughout a run holds throughout it from each of its states on. -/
theorem Throughout.from {P : State → Prop} {n : Nat} : ∀ {s t : State}, Throughout P s →
    Host.Core.run Sys2Proof.core n s = .next t → Throughout P t := by
  induction n with
  | zero => intro s t h hr; cases hr; exact h
  | succ n ih =>
    intro s t h hr
    obtain ⟨u, hs, hu⟩ := run_core_next hr
    exact ih (h.tail hs) hu

/-- What holds where a run starts and throughout the rest of it holds throughout it. -/
theorem Throughout.cons {P : State → Prop} {s t : State} (h : P s) (hs : step s = .next t) (ht : Throughout P t) :
    Throughout P s := by
  intro n u hu
  cases n with
  | zero => cases hu; exact h
  | succ n => exact ht n u ((run_core_succ hs n).symm.trans hu)

/-- Where a step leaves the state as it is, the run is that state. -/
theorem Throughout.rest {P : State → Prop} {s : State} (h : P s) (hs : step s = .next s) : Throughout P s := by
  intro n
  induction n with
  | zero => intro u hu; cases hu; exact h
  | succ n ih => exact fun u hu => ih u ((run_core_succ hs n).symm.trans hu)

/-- A request left standing waits, and no reset comes. -/
theorem leftStanding_iff {s : State} : s.leftStanding = true ↔ s.waits = true ∧ s.resetComes = false := by
  simp [State.leftStanding]

/-- Where a request that is not left standing waits, a reset comes. -/
theorem resetComes_of_waits {s : State} (h : s.leftStanding = false) (hw : s.waits = true) : s.resetComes = true := by
  simpa [State.leftStanding, hw] using h

/-- The three premises about requests together: in no state of the run is a request left standing. -/
theorem nothing_left_standing_iff {s : State} :
    BusAnswers s ∧ ClockEnds s ∧ HostTakesResponses s ↔ Throughout (fun t => t.leftStanding = false) s := by
  refine ⟨fun ⟨hb, hc, hr⟩ n t ht => ?_, fun h => ⟨fun n t ht _ _ _ => h n t ht, fun n t ht _ _ _ => h n t ht,
    fun n t ht _ _ => h n t ht⟩⟩
  cases hp : t.pend with
  | none => simp [State.leftStanding, State.waits, hp]
  | some q =>
    cases q with
    | write f ph => exact hb n t ht f ph hp
    | delay m ph => exact hc n t ht m ph hp
    | response r => exact hr n t ht r hp

end Sys2Proof.Machine
end

