-- ==== Sys2Proof/Tests/Slice0.lean ====
section
/-! SUPPORT. The model's own tests, in three parts: ill-formed terms and written-out words; one step of each instruction
against the vectors of spec/95_test_vectors.md; a witness for the hypotheses of each statement. -/

namespace Sys2Proof.Tests

open Sys2Proof Sys2Proof.Machine Sys2Proof.Expect

/-! ## Helpers -/

/-- The state of an outcome that goes on. -/
def stateOf : Host.Outcome State Fault Refusal → Option State
  | .next s => some s
  | .fault _ => none
  | .refused _ => none

/-- What a vector gives of the state after: the events, MODE, CTRL, and whether the block is idle. -/
def seen (o : Host.Outcome State Fault Refusal) : Option (List Event × Mode × BitVec 3 × Bool) :=
  (stateOf o).map fun s => (s.trace, s.mode, s.ctrl, s.busy)

/-- The moves by which the Bus or the Clock takes one request after the other and answers each. -/
def moves {α : Type} (xs : List α) : List (PortMove α) := xs.flatMap fun x => [.ready, .done x]

/-- An idle block with the inputs given. -/
def ready (m : Mode) (ctrl : BitVec 3) (ans : List Answer) (delays takes : Nat) : State :=
  { State.reset with
    mode := m, ctrl := ctrl, busMoves := moves ans, clockMoves := moves (List.replicate delays ()), rspTakes := takes }

/-- The same with packet bytes taken and bytes to come. -/
def fed (pkt bytes : List Byte) (s : State) : State := { s with pkt := pkt, bytes := bytes }

/-- The same with one reset to come, and the inputs after it. -/
def thenReset (i : Inputs) (s : State) : State := { s with afterResets := [i] }

/-- No input. -/
def noInputs : Inputs := ⟨[], [], [], 0⟩

/-- A bus error value (R6: there is one). -/
def err0 : BusErr := ⟨0, .inl rfl⟩

/-- A block in which `i` runs, at `upc`, with `pend` at its port. -/
def running (i : Instr) (m : Mode) (upc : Nat) (pend : Option Request) (s : State) : State :=
  { s with mode := m, busy := true, op := i, upc := upc, pend := pend }

/-- The answers the moves give are the list they were made of. -/
theorem answersAhead_moves {α : Type} (xs : List α) : answersAhead false (moves xs) = xs := by
  induction xs with
  | nil => rfl
  | cons x xs ih => simpa [moves, answersAhead] using ih

theorem ready_busAnswers (m : Mode) (ctrl : BitVec 3) (ans : List Answer) (delays takes : Nat) :
    (ready m ctrl ans delays takes).busAnswers = ans := answersAhead_moves ans

/-- A write to the display at its historical address (V8). -/
def toLcd (b0 b1 : Byte) (a : Answer) : Event := .write ⟨0x3E#7, b0, b1⟩ a

/-- A write to the backlight chip at its historical address (V8). -/
def toRgb (r v : Byte) (a : Answer) : Event := .write ⟨0x60#7, r, v⟩ a

/-! ## Well-formedness: an ill-formed term for each check, which the check refuses (R63, R64) -/

theorem test_wf_refuses_long_string : (Instr.writeStr (List.replicate 256 0x41#8)).wf = false := by
  simp only [Instr.wf, List.length_replicate]; decide

theorem test_wf_accepts_longest_string : (Instr.writeStr (List.replicate 255 0x41#8)).wf = true := by
  simp only [Instr.wf, List.length_replicate]; decide

theorem test_wf_refuses_legal_opcode_as_illegal :
    ∀ b ∈ [0x01#8, 0x02#8, 0x10#8, 0x15#8, 0x20#8, 0x21#8, 0x30#8, 0x31#8, 0x40#8], (Instr.illegal b).wf = false := by
  decide

/-! ## Words, bit by bit from the spec's encodings -/

/-- R61 to R63, byte 0 as the table's pattern of bits. -/
theorem test_decode_host_words :
    decode [0b00000001#8] = .ok (.init, []) ∧ decode [0b00000010#8] = .ok (.clear, []) ∧
    decode [0b00010000#8] = .ok (.setDisplay false, []) ∧ decode [0b00010011#8] = .ok (.setCursor true, []) ∧
    decode [0b00010100#8] = .ok (.setBlink false, []) ∧
    decode [0b00100001#8, 0x0F#8] = .ok (.setCursorPosition 0x0F#8 true, []) ∧
    decode [0b00110000#8, 0x31#8] = .ok (.writeChar 0x31#8, []) ∧
    decode [0b00110001#8, 0x02#8, 0x31#8, 0x00#8, 0x12#8] = .ok (.writeStr [0x31#8, 0x00#8], [0x12#8]) ∧
    decode [0b01000000#8, 0x0A#8, 0x14#8, 0x1E#8] = .ok (.setRgb 0x0A#8 0x14#8 0x1E#8, []) := by
  refine ⟨?_, ?_, ?_, ?_, ?_, ?_, ?_, ?_, ?_⟩ <;> rfl

/-- V19: the illegal bytes. -/
theorem test_decode_illegal_bytes :
    ∀ b ∈ [0x00#8, 0x03#8, 0x0F#8, 0x16#8, 0x17#8, 0x1F#8, 0x22#8, 0x2F#8, 0x32#8, 0x3F#8, 0x41#8, 0x80#8, 0xFF#8],
      opKindOf b = none ∧ illegalByte0 b = true := by decide

/-- R64's list of ranges and R61's table leave no byte out and share none. -/
theorem test_illegal_bytes_are_the_rest : ∀ b : Byte, (opKindOf b = none) = (illegalByte0 b = true) := by
  decide +kernel

/-- R53 to R58, the command byte as its pattern of bits. -/
theorem test_decode_lcd_words :
    decodeLcdFrame 0x08#8 0x80#8 0b00000001#8 = some .lcdClear ∧
    decodeLcdFrame 0x08#8 0x80#8 0b00000110#8 = some .lcdEntryMode ∧
    decodeLcdFrame 0x08#8 0x80#8 0b00001110#8 = some (.lcdControl true true false) ∧
    decodeLcdFrame 0x08#8 0x80#8 0b00101000#8 = some .lcdFunctionSet ∧
    decodeLcdFrame 0x08#8 0x80#8 0b11000101#8 = some (.lcdSetDdram 0b1000101#7) ∧
    decodeLcdFrame 0x08#8 0x40#8 0x80#8 = some (.lcdData 0x80#8) ∧
    decodeLcdFrame 0x08#8 0x80#8 0x10#8 = none ∧ decodeLcdFrame 0x08#8 0xC0#8 0x01#8 = none := by decide

/-- R59. -/
theorem test_decode_rgb_words :
    decodeRgbFrame 0x00#8 0x00#8 = some .rgbMode1 ∧ decodeRgbFrame 0x08#8 0xFF#8 = some .rgbLedout ∧
    decodeRgbFrame 0x01#8 0x20#8 = some .rgbMode2 ∧ decodeRgbFrame 0x04#8 0x01#8 = some (.rgbRed 0x01#8) ∧
    decodeRgbFrame 0x03#8 0x02#8 = some (.rgbGreen 0x02#8) ∧ decodeRgbFrame 0x02#8 0x03#8 = some (.rgbBlue 0x03#8) ∧
    decodeRgbFrame 0x00#8 0x01#8 = none ∧ decodeRgbFrame 0x05#8 0x00#8 = none := by decide

/-- The opcode table's numbering: a host row from byte 0 in bits 7..0, a frame row with `b0` in bits 15..8. -/
theorem test_decode_table_words :
    decodeTableWord 8 0x01 = some .init ∧ decodeTableWord 16 0x0521 = some (.setCursorPosition 0x05#8 true) ∧
    decodeTableWord 32 0x03020140 = some (.setRgb 0x01#8 0x02#8 0x03#8) ∧
    decodeTableWord 16 0x0031 = some (.writeStr []) ∧ decodeTableWord 8 0x16 = some (.illegal 0x16#8) ∧
    decodeTableWord 16 0x800E = some (.lcdControl true true false) ∧
    decodeTableWord 16 0x4041 = some (.lcdData 0x41#8) ∧ decodeTableWord 16 0x08FF = some .rgbLedout := by
  refine ⟨?_, ?_, ?_, ?_, ?_, ?_, ?_, ?_⟩ <;> rfl

/-! ## One step of each operation -/

/-- V10. -/
theorem test_init_ok :
    seen (exec .init (ready .uninitialized 0b000#3 (List.replicate 9 .ok) 4 1)) =
      some ([.op .init, .delay 80#16, toLcd 0x80#8 0x28#8 .ok, .delay 5#16, toLcd 0x80#8 0x28#8 .ok, .delay 5#16,
        toLcd 0x80#8 0x28#8 .ok, toLcd 0x80#8 0x0C#8 .ok, toLcd 0x80#8 0x01#8 .ok, .delay 2#16, toLcd 0x80#8 0x06#8 .ok,
        toRgb 0x00#8 0x00#8 .ok, toRgb 0x08#8 0xFF#8 .ok, toRgb 0x01#8 0x20#8 .ok, .rsp .ok],
        .ready, 0b100#3, false) := by decide

/-- V11 (d): the 2 ms delay follows the failed clear. -/
theorem test_init_clear_fails :
    seen (exec .init (ready .uninitialized 0b000#3 [.ok, .ok, .ok, .ok, .err err0] 4 1)) =
      some ([.op .init, .delay 80#16, toLcd 0x80#8 0x28#8 .ok, .delay 5#16, toLcd 0x80#8 0x28#8 .ok, .delay 5#16,
        toLcd 0x80#8 0x28#8 .ok, toLcd 0x80#8 0x0C#8 .ok, toLcd 0x80#8 0x01#8 (.err err0), .delay 2#16,
        .rsp (.busError err0)], .uninitialized, 0b100#3, false) := by decide

/-- V14 (a). -/
theorem test_clear_ok :
    seen (exec .clear (ready .ready 0b101#3 [.ok] 1 1)) =
      some ([.op .clear, toLcd 0x80#8 0x01#8 .ok, .delay 2#16, .rsp .ok], .ready, 0b101#3, false) := by decide

/-- V14 (b). -/
theorem test_clear_fails : ∀ e : BusErr,
    seen (exec .clear (ready .ready 0b101#3 [.err e] 1 1)) =
      some ([.op .clear, toLcd 0x80#8 0x01#8 (.err e), .delay 2#16, .rsp (.busError e)], .ready, 0b101#3,
        false) := fun _ => rfl

/-- V13: an adder would give 0x00. -/
theorem test_set_cursor_position_ors :
    seen (exec (.setCursorPosition 0x40#8 true) (ready .ready 0b100#3 [.ok] 0 1)) =
      some ([.op (.setCursorPosition 0x40#8 true), toLcd 0x80#8 0xC0#8 .ok, .rsp .ok], .ready, 0b100#3, false) := by
  decide

/-- V2. -/
theorem test_set_cursor_position_row_one :
    seen (exec (.setCursorPosition 0x05#8 true) (ready .ready 0b000#3 [.ok] 0 1)) =
      some ([.op (.setCursorPosition 0x05#8 true), toLcd 0x80#8 0xC5#8 .ok, .rsp .ok], .ready, 0b000#3, false) := by
  decide

/-- V15: off from 111. -/
theorem test_set_display_off :
    seen (exec (.setDisplay false) (ready .ready 0b111#3 [.ok] 0 1)) =
      some ([.op (.setDisplay false), toLcd 0x80#8 0x0B#8 .ok, .rsp .ok], .ready, 0b011#3, false) := by decide

/-- V15: on when it is on already, the byte is sent all the same. -/
theorem test_set_display_no_change :
    seen (exec (.setDisplay true) (ready .ready 0b100#3 [.ok] 0 1)) =
      some ([.op (.setDisplay true), toLcd 0x80#8 0x0C#8 .ok, .rsp .ok], .ready, 0b100#3, false) := by decide

/-- V15: a failing write is not rolled back. -/
theorem test_set_cursor_no_rollback :
    seen (exec (.setCursor true) (ready .ready 0b100#3 [.err err0] 0 1)) =
      some ([.op (.setCursor true), toLcd 0x80#8 0x0E#8 (.err err0), .rsp (.busError err0)], .ready, 0b110#3,
        false) := by decide

/-- V15. -/
theorem test_set_cursor_off :
    seen (exec (.setCursor false) (ready .ready 0b110#3 [.ok] 0 1)) =
      some ([.op (.setCursor false), toLcd 0x80#8 0x0C#8 .ok, .rsp .ok], .ready, 0b100#3, false) := by decide

/-- V15. -/
theorem test_set_blink_off :
    seen (exec (.setBlink false) (ready .ready 0b111#3 [.ok] 0 1)) =
      some ([.op (.setBlink false), toLcd 0x80#8 0x0E#8 .ok, .rsp .ok], .ready, 0b110#3, false) := by decide

/-- V15, last sentence: refused in (U, 000). -/
theorem test_set_blink_refused :
    seen (exec (.setBlink true) (ready .uninitialized 0b000#3 [.ok] 0 1)) =
      some ([.op (.setBlink true), .rsp .invalidState], .uninitialized, 0b000#3, false) := by decide

/-- V16: 0x01 is a character code here. -/
theorem test_write_char :
    seen (exec (.writeChar 0x01#8) (ready .ready 0b100#3 [.ok] 0 1)) =
      some ([.op (.writeChar 0x01#8), toLcd 0x40#8 0x01#8 .ok, .rsp .ok], .ready, 0b100#3, false) := by decide

/-- V16: refused in (U, 000). -/
theorem test_write_char_refused :
    seen (exec (.writeChar 0x41#8) (ready .uninitialized 0b000#3 [.ok] 0 1)) =
      some ([.op (.writeChar 0x41#8), .rsp .invalidState], .uninitialized, 0b000#3, false) := by decide

/-- V17 (c): the third byte is never sent. -/
theorem test_write_str_second_fails : ∀ e : BusErr,
    seen (exec (.writeStr [0x41#8, 0x42#8, 0x43#8]) (ready .ready 0b100#3 [.ok, .err e, .ok] 0 1)) =
      some ([.op (.writeStr [0x41#8, 0x42#8, 0x43#8]), toLcd 0x40#8 0x41#8 .ok, toLcd 0x40#8 0x42#8 (.err e),
        .rsp (.busError e)], .ready, 0b100#3, false) := fun _ => rfl

/-- V17 (a). -/
theorem test_write_str_empty :
    seen (exec (.writeStr []) (ready .ready 0b100#3 [] 0 1)) =
      some ([.op (.writeStr []), .rsp .ok], .ready, 0b100#3, false) := by decide

/-- V7. -/
theorem test_set_rgb_order :
    seen (exec (.setRgb 0x01#8 0x02#8 0x03#8) (ready .ready 0b000#3 [.ok, .ok, .ok] 0 1)) =
      some ([.op (.setRgb 0x01#8 0x02#8 0x03#8), toRgb 0x04#8 0x01#8 .ok, toRgb 0x03#8 0x02#8 .ok,
        toRgb 0x02#8 0x03#8 .ok, .rsp .ok], .ready, 0b000#3, false) := by decide

/-- V18 (d). -/
theorem test_set_rgb_green_fails : ∀ e : BusErr,
    seen (exec (.setRgb 0x0A#8 0x14#8 0x1E#8) (ready .ready 0b000#3 [.ok, .err e] 0 1)) =
      some ([.op (.setRgb 0x0A#8 0x14#8 0x1E#8), toRgb 0x04#8 0x0A#8 .ok, toRgb 0x03#8 0x14#8 (.err e),
        .rsp (.busError e)], .ready, 0b000#3, false) := fun _ => rfl

/-- V19: ILLEGAL_COMMAND, not INVALID_STATE, in (U, 000). -/
theorem test_illegal_uninitialized :
    seen (step (fed [] [0x16#8] (ready .uninitialized 0b000#3 [.ok] 1 1))) =
      some ([.rsp .illegalCommand], .uninitialized, 0b000#3, false) := by decide

/-! ## One step of each frame -/

/-- R50 to R59: each frame kind's bytes at its port, one write each. -/
theorem test_lcd_frames :
    ∀ p ∈ [(Instr.lcdClear, 0x80#8, 0x01#8), (.lcdEntryMode, 0x80#8, 0x06#8),
      (.lcdControl true false true, 0x80#8, 0x0D#8), (.lcdFunctionSet, 0x80#8, 0x28#8),
      (.lcdSetDdram 0x45#7, 0x80#8, 0xC5#8), (.lcdData 0x48#8, 0x40#8, 0x48#8)],
      seen (exec p.1 (ready .ready 0b100#3 [.ok] 0 0)) =
        some ([toLcd p.2.1 p.2.2 .ok], .ready, 0b100#3, false) := by decide

theorem test_rgb_frames :
    ∀ p ∈ [(Instr.rgbMode1, 0x00#8, 0x00#8), (.rgbLedout, 0x08#8, 0xFF#8), (.rgbMode2, 0x01#8, 0x20#8),
      (.rgbRed 0x0A#8, 0x04#8, 0x0A#8), (.rgbGreen 0x14#8, 0x03#8, 0x14#8), (.rgbBlue 0x1E#8, 0x02#8, 0x1E#8)],
      seen (exec p.1 (ready .ready 0b100#3 [.err err0] 0 0)) =
        some ([toRgb p.2.1 p.2.2 (.err err0)], .ready, 0b100#3, false) := by decide

/-! ## The step, the host port and reset -/

/-- V21: an incomplete packet makes no event. -/
theorem test_incomplete_packet :
    stateOf (step (fed [0x40#8, 0x01#8] [0x02#8] (ready .ready 0b100#3 [.ok, .ok, .ok] 0 1))) =
      some (fed [0x40#8, 0x01#8, 0x02#8] [] (ready .ready 0b100#3 [.ok, .ok, .ok] 0 1)) := by decide

/-- V22 (b): reset discards a partial packet; the byte after it is INIT, not the green operand. -/
theorem test_reset_discards_packet :
    stateOf (step (thenReset ⟨[0x01#8], [], [], 0⟩ (fed [0x40#8, 0x01#8] [] (ready .ready 0b111#3 [] 0 0)))) =
      some (fed [] [0x01#8] (ready .uninitialized 0b000#3 [] 0 0)) := by decide

/-- R155, R156: reset while the clear write, taken by the Bus, is not answered: abandoned without an event. -/
theorem test_reset_while_waiting :
    (stateOf (step (thenReset noInputs (running .clear .ready 0 (some (.write ⟨0x3E#7, 0x80#8, 0x01#8⟩ .taken))
      (ready .ready 0b101#3 [] 1 1))))).map (fun s => (s.mode, s.ctrl, s.busy, s.pend, s.trace)) =
      some (.uninitialized, 0b000#3, false, none, []) := by decide

/-- R156 with R89: an INIT cut by reset while its first 5 ms delay is taken and not over, then INIT: the late end of the
delay, even in the middle of the next one's 80 ms, is ignored, and the second INIT runs whole (V10). -/
theorem test_reset_cuts_init_then_init :
    let after : Inputs := ⟨[0x01#8], moves (List.replicate 9 .ok), .ready :: .late () :: .done () :: moves (List.replicate 3 ()), 1⟩
    let s := fed [] [0x01#8] (thenReset after { ready .uninitialized 0b000#3 [.ok] 1 0 with
      clockMoves := [.ready, .done (), .ready] })
    let s1 := (stateOf (step s)).getD s
    let s2 := (stateOf (step s1)).getD s
    s1.trace = [.op .init, .delay 80#16, toLcd 0x80#8 0x28#8 .ok] ∧ s1.pend = some (.delay 5#16 .taken) ∧
      s2.trace = s1.trace ∧ s2.busy = false ∧
      (seen (step s2)).map (fun r => (r.1.drop 3, r.2)) = seen (exec .init (ready .uninitialized 0b000#3
        (List.replicate 9 .ok) 4 1)) := by decide

/-- R49: the Bus takes the write and does not answer: it is offered no more. -/
theorem test_write_taken :
    (stateOf (exec (.writeChar 0x41#8) { ready .ready 0b100#3 [] 0 0 with busMoves := [.ready] })).map
      (fun s => (s.pend, busValid s, s.trace)) =
      some (some (.write ⟨0x3E#7, 0x40#8, 0x41#8⟩ .taken), false, [.op (.writeChar 0x41#8)]) := by decide

/-- R156: a late answer is not the write's answer, and neither is one that comes before it is taken. -/
theorem test_late_answer_ignored :
    seen (exec (.writeChar 0x41#8) { ready .ready 0b100#3 [] 0 1 with
      busMoves := [.done (.err err0), .ready, .late (.err err0), .done .ok] }) =
      some ([.op (.writeChar 0x41#8), toLcd 0x40#8 0x41#8 .ok, .rsp .ok], .ready, 0b100#3, false) := by decide

/-- V12: the control byte of every CTRL. -/
theorem test_control_bytes :
    (List.range 8).map (fun n => crValue (BitVec.ofNat 3 n)) =
      [0x08#8, 0x09#8, 0x0A#8, 0x0B#8, 0x0C#8, 0x0D#8, 0x0E#8, 0x0F#8] := by decide

/-- V12: CR_SET and CR_CLEAR from 101 and from 010. -/
theorem test_control_transitions :
    [crSet .displayOn 0b101#3, crSet .cursorOn 0b101#3, crSet .blinkOn 0b101#3, crClear .displayOn 0b101#3,
      crClear .cursorOn 0b101#3, crClear .blinkOn 0b101#3] =
      [0b101#3, 0b111#3, 0b101#3, 0b001#3, 0b101#3, 0b100#3] ∧
    [crSet .displayOn 0b010#3, crSet .cursorOn 0b010#3, crSet .blinkOn 0b010#3, crClear .displayOn 0b010#3,
      crClear .cursorOn 0b010#3, crClear .blinkOn 0b010#3] =
      [0b110#3, 0b010#3, 0b011#3, 0b010#3, 0b000#3, 0b010#3] := by decide

/-- The ports while a failed WRITE_CHAR's response stands: `busy` = 1, status code 1, the value's code (R49, R130). -/
theorem test_ports_of_response : ∀ e : BusErr,
    let s := stateOf (exec (.writeChar 0x41#8) (ready .ready 0b100#3 [.err e] 0 0))
    s.map (fun s => (busyOut s, cmdReady s, rspValid s, busValid s)) = some (1#1, false, true, false) ∧
      s.map rspStatus = some (some 1#2) ∧ s.map rspErr = some (some (Config.errorCode e)) := fun _ => ⟨rfl, rfl, rfl⟩

/-- The interface's placing of a word: the next step after reset runs it (SET_RGB refused before INIT; a frame at the
port waits for the Bus). -/
theorem test_with_fetch_word :
    (stateOf (step (State.reset.withFetchWord 32 0x03020140))).map (fun s => (s.trace, s.pend)) =
      some ([.op (.setRgb 0x01#8 0x02#8 0x03#8)], some (.response .invalidState)) ∧
    (stateOf (step (State.reset.withFetchWord 16 0x08FF))).map (fun s => (s.trace, s.pend)) =
      some ([], some (.write ⟨0x60#7, 0x08#8, 0xFF#8⟩ .offered)) := by decide

/-! ## Witnesses: for each statement with hypotheses, a state and operands that meet them together -/

theorem witness_HostPacketsDecodeAsEncoded :
    ∀ i ∈ [Instr.init, .writeStr [], .writeStr (List.replicate 255 0xFF#8), .illegal 0x00#8, .illegal 0xFF#8],
      i.layer = .host ∧ i.wf = true := by
  intro i h
  simp only [List.mem_cons, List.not_mem_nil, or_false] at h
  rcases h with rfl | rfl | rfl | rfl | rfl <;> refine ⟨rfl, ?_⟩ <;>
    simp only [Instr.wf, List.length_replicate, List.length_nil] <;> decide

theorem witness_DecodedPacketsReencode :
    decode [0x31#8, 0x01#8, 0x58#8, 0x02#8] = .ok (.writeStr [0x58#8], [0x02#8]) := by rfl

theorem witness_FramesDecodeAsEncoded :
    (Instr.lcdSetDdram 0x7F#7).layer ≠ .host ∧ (Instr.rgbBlue 0xFF#8).layer ≠ .host := by decide

theorem witness_DecodedFramesReencode :
    decodeFrame 0x08#8 .lcdFrame [0x80#8, 0x0F#8] = some (.lcdControl true true true) ∧
    decodeFrame 0x08#8 .rgbFrame [0x02#8, 0xFF#8] = some (.rgbBlue 0xFF#8) := by decide

theorem witness_ControlByteOfCtrl : (0x08#8 : Byte) ≤ 0x08#8 ∧ (0x08#8 : Byte) ≤ 0x0F#8 ∧ (0x0F#8 : Byte) ≤ 0x0F#8 := by
  decide

theorem witness_ControlRegisterLaws :
    Flag.displayOn ≠ .blinkOn ∧ (0b011#3).getLsbD (flagBit .displayOn) = false ∧
    (0b100#3).getLsbD (flagBit .displayOn) = true := by decide

theorem witness_CursorByteIsTheOr :
    (0 : Nat) < 6 ∧ (5 : Nat) < 6 ∧ (0x00#8 : Byte) ≤ 0x0F#8 ∧ (0x0F#8 : Byte) ≤ 0x0F#8 := by decide

/-- Every clause's answers: nine `Ok`, and the first failure at 0, 4 and 8. -/
theorem witness_InitOutcomesByPointOfFailure :
    ∀ ans ∈ ([List.replicate 9 .ok, [.err err0], [.ok, .ok, .ok, .ok, .err err0],
        [.ok, .ok, .ok, .ok, .ok, .ok, .ok, .ok, .err err0]] : List (List Answer)),
      let s := ready .uninitialized 0b111#3 ans 4 1
      s.idle ∧ s.mode = .uninitialized ∧ s.showFunction = 0x08#8 ∧ EndsThere 4 s ∧ TakesThere 1 s ∧
        (s.busAnswers = List.replicate 9 Answer.ok ++ [] ∨
          ∃ (k : Nat) (e : BusErr), k < 9 ∧ s.busAnswers = List.replicate k Answer.ok ++ [Answer.err e]) := by
  intro ans h
  simp only [List.mem_cons, List.not_mem_nil, or_false] at h
  refine ⟨⟨rfl, rfl⟩, rfl, rfl, Nat.le_refl 4, Nat.le_refl 1, ?_⟩
  rcases h with rfl | rfl | rfl | rfl
  · exact .inl rfl
  · exact .inr ⟨0, err0, by decide, rfl⟩
  · exact .inr ⟨4, err0, by decide, rfl⟩
  · exact .inr ⟨8, err0, by decide, rfl⟩

theorem witness_InitSendsItsSequence :
    let s := ready .uninitialized 0b010#3 (List.replicate 9 .ok) 4 1
    s.idle ∧ s.mode = .uninitialized ∧ EndsThere 4 s ∧ TakesThere 1 s ∧
      s.busAnswers = List.replicate 9 .ok ++ [] :=
  ⟨⟨rfl, rfl⟩, rfl, Nat.le_refl 4, Nat.le_refl 1, rfl⟩

/-- A state for each clause, one per row. -/
theorem witness_InitRowsPutTheirRequests :
    ∀ u, u ≤ 13 → let s := running .init .uninitialized u none (ready .uninitialized 0b011#3 [] 0 0)
      s.busy = true ∧ s.op = .init ∧ s.pend = none ∧ silent s ∧ s.upc = u :=
  fun _ _ => ⟨rfl, rfl, rfl, ⟨rfl, rfl, rfl⟩, rfl⟩

/-- CLEAR's and SET_RGB's rows; a WRITE_STR at its first byte, at its last, and at its end. -/
theorem witness_ManyStepRowsPutTheirRequests :
    (∀ i ∈ [Instr.clear, .setRgb 0x01#8 0x02#8 0x03#8], ∀ u, u ≤ 3 →
      let s := running i .ready u none (ready .ready 0b100#3 [] 0 0)
      s.busy = true ∧ s.pend = none ∧ silent s ∧ s.op = i ∧ s.upc = u) ∧
    (∀ x, x ≤ 2 →
      let s := { running (.writeStr [0x41#8, 0x42#8]) .ready 0 none (ready .ready 0b100#3 [] 0 0) with sidx := x }
      s.busy = true ∧ s.pend = none ∧ silent s ∧ s.op = .writeStr [0x41#8, 0x42#8] ∧ s.upc = 0 ∧ s.sidx = x) ∧
    ([0x41#8, 0x42#8] : List Byte)[0]? = some 0x41#8 ∧ ([0x41#8, 0x42#8] : List Byte)[1]? = some 0x42#8 ∧
    ([0x41#8, 0x42#8] : List Byte).length ≤ 2 :=
  ⟨fun _ _ _ _ => ⟨rfl, rfl, ⟨rfl, rfl, rfl⟩, rfl, rfl⟩, fun _ _ => ⟨rfl, rfl, ⟨rfl, rfl, rfl⟩, rfl, rfl, rfl⟩, rfl, rfl,
    Nat.le_refl 2⟩

/-- Each operation of one write at both its rows; and an idle block whose host takes no response. -/
theorem witness_OneWriteRowsPutTheirRequests :
    (∀ i ∈ [Instr.setCursorPosition 0xFF#8 true, .setDisplay true, .setCursor false, .setBlink true, .writeChar 0x00#8],
      ∀ u, u = 0 ∨ u = 1 →
      let s := running i .ready u none (ready .ready 0b101#3 [] 0 0)
      s.busy = true ∧ s.pend = none ∧ silent s ∧ s.op = i ∧ s.upc = u) ∧
    State.reset.idle ∧ State.reset.rspTakes = 0 :=
  ⟨fun _ _ _ _ => ⟨rfl, rfl, ⟨rfl, rfl, rfl⟩, rfl, rfl⟩, ⟨rfl, rfl⟩, rfl⟩

/-- Ready with an answer of either kind and a delay end, and Uninitialized. -/
theorem witness_ClearWritesThenAlwaysDelays :
    (∀ a, let s := ready .ready 0b101#3 [a] 1 1
      s.idle ∧ TakesThere 1 s ∧ s.mode = .ready ∧ EndsThere 1 s ∧ s.busAnswers = a :: []) ∧
    (let s := ready .uninitialized 0b000#3 [] 0 1;
      s.idle ∧ TakesThere 1 s ∧ s.mode = .uninitialized) :=
  ⟨fun _ => ⟨⟨rfl, rfl⟩, Nat.le_refl 1, rfl, Nat.le_refl 1, rfl⟩, ⟨rfl, rfl⟩, Nat.le_refl 1, rfl⟩

/-- The hypotheses the five operations of one write share: Ready with either answer, and Uninitialized. -/
def oneWriteHypothesesMet : Prop :=
  (∀ a, let s := ready .ready 0b101#3 [a] 0 1;
    s.idle ∧ TakesThere 1 s ∧ s.mode = .ready ∧ s.busAnswers = a :: []) ∧
  (let s := ready .uninitialized 0b000#3 [] 0 1;
    s.idle ∧ TakesThere 1 s ∧ s.mode = .uninitialized)

theorem witness_SetCursorPositionSendsTheOr : oneWriteHypothesesMet :=
  ⟨fun _ => ⟨⟨rfl, rfl⟩, Nat.le_refl 1, rfl, rfl⟩, ⟨rfl, rfl⟩, Nat.le_refl 1, rfl⟩

theorem witness_SetDisplaySetsDAndResends : oneWriteHypothesesMet := witness_SetCursorPositionSendsTheOr

theorem witness_SetCursorSetsCAndResends : oneWriteHypothesesMet := witness_SetCursorPositionSendsTheOr

theorem witness_SetBlinkSetsBAndResends : oneWriteHypothesesMet := witness_SetCursorPositionSendsTheOr

theorem witness_WriteCharSendsTheCode : oneWriteHypothesesMet := witness_SetCursorPositionSendsTheOr

/-- The empty and the longest string, all sent; a failure at the first and at the last byte; Uninitialized. -/
theorem witness_WriteStrSendsInOrder :
    (∀ n, n = 0 ∨ n = 255 → let s := ready .ready 0b100#3 (List.replicate n .ok) 0 1
      (List.replicate n 0x41#8).length ≤ 255 ∧ s.idle ∧ TakesThere 1 s ∧ s.mode = .ready ∧
        s.busAnswers = List.replicate ((List.replicate n 0x41#8).map (lcdChr s)).length Answer.ok ++ []) ∧
    (∀ n, n = 0 ∨ n = 254 →
      let s := ready .ready 0b100#3 (List.replicate n Answer.ok ++ [Answer.err err0]) 0 1
      let done := List.replicate n (lcdChr s 0x41#8)
      s.idle ∧ TakesThere 1 s ∧ s.mode = .ready ∧
        (List.replicate n 0x41#8 ++ [0x42#8]).map (lcdChr s) = done ++ lcdChr s 0x42#8 :: [] ∧
        s.busAnswers = List.replicate done.length Answer.ok ++ [Answer.err err0]) ∧
    (let s := ready .uninitialized 0b000#3 [] 0 1;
      s.idle ∧ TakesThere 1 s ∧ s.mode = .uninitialized) := by
  refine ⟨fun n h => ⟨?_, ⟨rfl, rfl⟩, Nat.le_refl 1, rfl, ?_⟩, fun n _ => ⟨⟨rfl, rfl⟩, Nat.le_refl 1, rfl, ?_, ?_⟩,
    ⟨rfl, rfl⟩, Nat.le_refl 1, rfl⟩
  · rw [List.length_replicate]; omega
  · simp [ready_busAnswers]
  · simp
  · simp [ready_busAnswers]

theorem witness_OneByteStringIsWriteChar :
    let s := ready .ready 0b100#3 [.err err0] 0 1
    s.idle ∧ s.mode = .ready ∧ AnswersThere 1 s ∧ TakesThere 1 s :=
  ⟨⟨rfl, rfl⟩, rfl, Nat.le_refl 1, Nat.le_refl 1⟩

/-- All `Ok`; each of the three writes failing; Uninitialized. -/
theorem witness_SetRgbWritesRedGreenBlue :
    (let s := ready .ready 0b100#3 [.ok, .ok, .ok] 0 1;
      s.idle ∧ TakesThere 1 s ∧ s.mode = .ready ∧
        s.busAnswers = List.replicate (rgbFrames s 0x01#8 0x02#8 0x03#8).length Answer.ok ++ []) ∧
    (∀ k, k < 3 → let s := ready .ready 0b100#3 (List.replicate k Answer.ok ++ [Answer.err err0]) 0 1
      s.idle ∧ TakesThere 1 s ∧ s.mode = .ready ∧ ∃ (done : List Frame) (f : Frame) (rest : List Frame),
        rgbFrames s 0x01#8 0x02#8 0x03#8 = done ++ f :: rest ∧
        s.busAnswers = List.replicate done.length Answer.ok ++ [Answer.err err0]) ∧
    (let s := ready .uninitialized 0b000#3 [] 0 1;
      s.idle ∧ TakesThere 1 s ∧ s.mode = .uninitialized) := by
  refine ⟨⟨⟨rfl, rfl⟩, Nat.le_refl 1, rfl, rfl⟩, fun k hk => ⟨⟨rfl, rfl⟩, Nat.le_refl 1, rfl, ?_⟩,
    ⟨rfl, rfl⟩, Nat.le_refl 1, rfl⟩
  obtain rfl | rfl | rfl : k = 0 ∨ k = 1 ∨ k = 2 := by omega
  · exact ⟨[], _, _, rfl, rfl⟩
  · exact ⟨[_], _, _, rfl, rfl⟩
  · exact ⟨[_, _], _, _, rfl, rfl⟩

/-- The port free and the frame standing, an answer there and none. -/
theorem witness_FramesAreOneWriteEach :
    ∀ ans ∈ [[.err err0], []],
      let s := ready .ready 0b100#3 ans 0 0
      let f := rgbReg s 0x02#8 0xFF#8
      let s1 := { s with pend := some (.write f .offered) }
      frameOf s (.rgbBlue 0xFF#8) = some f ∧ s.busy = false ∧ s.pend = none ∧
        frameOf s1 (.rgbBlue 0xFF#8) = some f ∧ s1.busy = false ∧ s1.pend = some (.write f .offered) := by decide

/-- The write `f` that `i` has standing at `upc` `u`, offered or taken, with the answer `a` to come. -/
def standing (i : Instr) (m : Mode) (ctrl : BitVec 3) (u : Nat) (f : Frame) (ph : Phase) (a : Answer) : State :=
  { running i m u (some (.write f ph)) (ready m ctrl [] 1 1) with
    busMoves := match ph with | .offered => [.ready, .done a] | .taken => [.done a] }

/-- A held clear write, a write of INIT at `upc` 7 and at `upc` 9, and a write of WRITE_STR, offered and taken, with either
answer. -/
theorem witness_StandingWriteAnswerReachesItsOperation :
    ∀ a ∈ [Answer.ok, .err err0], ∀ ph ∈ [Phase.offered, .taken],
      ∀ p ∈ [(standing .clear .ready 0b101#3 0 ⟨0x3E#7, 0x80#8, 0x01#8⟩ ph a, Instr.lcdClear),
          (standing .init .uninitialized 0b100#3 7 ⟨0x3E#7, 0x80#8, 0x01#8⟩ ph a, .lcdClear),
          (standing .init .uninitialized 0b100#3 9 ⟨0x3E#7, 0x80#8, 0x06#8⟩ ph a, .lcdEntryMode),
          (standing (.writeStr [0x41#8]) .ready 0b101#3 0 ⟨0x3E#7, 0x40#8, 0x41#8⟩ ph a, .lcdData 0x41#8)],
        p.1.Inv ∧ p.1.busy = true ∧ (frameOf p.1 p.2).map (fun f => Request.write f ph) = p.1.pend ∧ p.1.pend.isSome = true ∧
          p.1.busAnswers = [a] := by decide

/-- CLEAR's delay and INIT's four, offered, the last with either held answer. -/
theorem witness_StandingDelayEndReachesItsOperation :
    ∀ s ∈ [running .clear .ready 1 (some (.delay 2#16 .offered)) (ready .ready 0b101#3 [] 1 0),
        running .init .uninitialized 0 (some (.delay 80#16 .offered)) (ready .uninitialized 0b000#3 [] 1 0),
        running .init .uninitialized 2 (some (.delay 5#16 .offered)) (ready .uninitialized 0b000#3 [] 1 0),
        running .init .uninitialized 4 (some (.delay 5#16 .offered)) (ready .uninitialized 0b000#3 [] 1 0),
        running .init .uninitialized 8 (some (.delay 2#16 .offered)) (ready .uninitialized 0b100#3 [] 1 0),
        { running .init .uninitialized 8 (some (.delay 2#16 .offered)) (ready .uninitialized 0b100#3 [] 1 0) with
          held := .err err0 }],
      s.Inv ∧ s.busy = true ∧ s.pend.isSome = true ∧ s.delayEnds = 0 + 1 ∧ s.busMoves = [] ∧ s.rspTakes = 0 := by decide

theorem witness_ResponseTakenEndsTheOperation :
    let s := running .clear .ready 2 (some (.response (.busError err0))) (ready .ready 0b101#3 [] 0 1)
    s.busy = true ∧ s.op.layer = .host ∧ s.pend = some (.response (.busError err0)) ∧ s.rspTakes = 0 + 1 := by decide

theorem witness_FramesNeverInterrupt :
    let s := running .clear .ready 1 (some (.delay 2#16 .offered)) (ready .ready 0b101#3 [.ok] 0 0)
    frameOf s .lcdClear = some ⟨0x3E#7, 0x80#8, 0x01#8⟩ ∧ s.busy = true ∧
      ∀ ph, s.pend ≠ some (.write ⟨0x3E#7, 0x80#8, 0x01#8⟩ ph) :=
  ⟨rfl, rfl, fun _ => by simp [running]⟩

/-- INIT while Ready, and another operation while Uninitialized. -/
theorem witness_WrongModeIsRefused :
    (let s := fed [] [0x01#8] (ready .ready 0b110#3 [] 0 1)
     s.idle ∧ TakesThere 1 s ∧ s.bytes = 0x01#8 :: [] ∧
      decode (s.pkt ++ [0x01#8]) = .ok (.init, []) ∧ isOperation .init = true ∧ s.mode ≠ admittedIn .init) ∧
    (let s := fed [0x30#8] [0x41#8] (ready .uninitialized 0b000#3 [] 0 1)
     s.idle ∧ TakesThere 1 s ∧ s.bytes = 0x41#8 :: [] ∧
      decode (s.pkt ++ [0x41#8]) = .ok (.writeChar 0x41#8, []) ∧ isOperation (.writeChar 0x41#8) = true ∧
      s.mode ≠ admittedIn (.writeChar 0x41#8)) :=
  ⟨⟨⟨rfl, rfl⟩, Nat.le_refl 1, rfl, rfl, rfl, by decide⟩, ⟨rfl, rfl⟩, Nat.le_refl 1, rfl, rfl, rfl, by decide⟩

theorem witness_IllegalByteIsRefused :
    ∀ b ∈ [0x00#8, 0x0F#8, 0x16#8, 0x3F#8, 0x41#8, 0xFF#8],
      let s := fed [] [b] (ready .uninitialized 0b000#3 [] 0 1)
      s.idle ∧ s.pkt = [] ∧ TakesThere 1 s ∧ s.bytes = b :: [] ∧ illegalByte0 b = true := by
  intro b h
  exact ⟨⟨rfl, rfl⟩, rfl, Nat.le_refl 1, rfl, (test_decode_illegal_bytes b (by simp at h ⊢; tauto)).2⟩

theorem witness_IllegalCompletes :
    let s := ready .ready 0b111#3 [] 0 1
    s.idle ∧ TakesThere 1 s := ⟨⟨rfl, rfl⟩, Nat.le_refl 1⟩

theorem witness_StepRunsTheWholePacket :
    let s := fed [0x21#8] [0x05#8] (ready .ready 0b100#3 [.ok] 0 1)
    s.idle ∧ s.bytes = 0x05#8 :: [] ∧
      decode (s.pkt ++ [0x05#8]) = .ok (.setCursorPosition 0x05#8 true, []) := ⟨⟨rfl, rfl⟩, rfl, rfl⟩

theorem witness_StepKeepsPartialPacket :
    let s := fed [0x31#8] [0x05#8] (ready .ready 0b100#3 [.ok] 0 1)
    s.idle ∧ s.bytes = 0x05#8 :: [] ∧
      decode (s.pkt ++ [0x05#8]) = .error (.truncated 0x31#8 2 7) := ⟨⟨rfl, rfl⟩, rfl, rfl⟩

/-- A packet from its start, and its last byte. -/
theorem witness_PacketByteByByteRunsOnce :
    let i := Instr.writeStr [0x41#8, 0x42#8]
    (let s := fed [] (encode i) (ready .ready 0b100#3 [.ok, .ok] 0 1)
     i.layer = .host ∧ i.wf = true ∧ s.idle ∧ 0 < (encode i).length ∧ s.pkt = (encode i).take 0 ∧
      s.bytes = (encode i).drop 0 ++ []) ∧
    (let s := fed [0x31#8, 0x02#8, 0x41#8] [0x42#8, 0x02#8] (ready .ready 0b100#3 [.ok, .ok] 0 1)
     s.idle ∧ 3 < (encode i).length ∧ s.pkt = (encode i).take 3 ∧ s.bytes = (encode i).drop 3 ++ [0x02#8]) :=
  ⟨⟨rfl, rfl, ⟨rfl, rfl⟩, by decide, rfl, rfl⟩, ⟨rfl, rfl⟩, by decide, rfl, rfl⟩

theorem witness_StepRunsTheStandingFrame :
    let s := standing (.writeChar 0x41#8) .ready 0b100#3 0 ⟨0x3E#7, 0x40#8, 0x41#8⟩ .offered .ok
    noReset s ∧ s.pend = some (.write ⟨0x3E#7, 0x40#8, 0x41#8⟩ .offered) ∧
      frameKind ⟨0x3E#7, 0x40#8, 0x41#8⟩ s = some (.lcdData 0x41#8) := ⟨rfl, rfl, rfl⟩

theorem witness_StepResumesTheOperation :
    let s := running .clear .ready 1 (some (.delay 2#16 .offered)) (fed [] [0x01#8] (ready .ready 0b101#3 [] 1 1))
    noReset s ∧ s.busy = true ∧ (∀ f ph, s.pend ≠ some (.write f ph)) ∧ (stateOf (step s)).isSome = true :=
  ⟨rfl, rfl, fun _ _ => by simp [running], by decide⟩

theorem witness_IdleBlockWaits : State.reset.idle ∧ State.reset.bytes = [] ∧ State.reset.afterResets = [] :=
  ⟨⟨rfl, rfl⟩, rfl, rfl⟩

/-- An unanswered write, an unfinished delay, a response not taken. -/
theorem witness_UnansweredRequestIsNeverPassed :
    ∀ s ∈ [running .clear .ready 0 (some (.write ⟨0x3E#7, 0x80#8, 0x01#8⟩ .offered)) (ready .ready 0b101#3 [] 1 1),
        running .clear .ready 0 (some (.write ⟨0x3E#7, 0x80#8, 0x01#8⟩ .taken)) (ready .ready 0b101#3 [] 1 1),
        running .clear .ready 1 (some (.delay 2#16 .offered)) (ready .ready 0b101#3 [.ok] 0 1),
        running .clear .ready 1 (some (.delay 2#16 .taken)) (ready .ready 0b101#3 [.ok] 0 1),
        running .clear .ready 2 (some (.response .ok)) (ready .ready 0b101#3 [.ok] 1 0)],
      s.Inv ∧ s.busy = true ∧ s.waits = true ∧ s.resetComes = false := by decide

/-- A write and a delay, each taken between an answer and a `ready` that are ignored, with a late answer behind. -/
theorem witness_TakenRequestAwaitsItsAnswer :
    (let f := ⟨0x3E#7, 0x80#8, 0x01#8⟩
     let s := { running .clear .ready 0 (some (.write f .offered)) (ready .ready 0b101#3 [] 0 0) with
       busMoves := [.done (.err err0), .ready, .ready, .late .ok] }
     s.Inv ∧ s.busy = true ∧ s.resetComes = false ∧ s.pend = some (.write f .offered) ∧
      s.busMoves = [.done (.err err0)] ++ .ready :: [.ready, .late .ok] ∧ PortMove.ready ∉ [PortMove.done (Answer.err err0)]) ∧
    (∀ a : Answer, PortMove.done a ∉ [PortMove.ready, .late .ok]) ∧
    (let s := { running .clear .ready 1 (some (.delay 2#16 .offered)) (ready .ready 0b101#3 [] 0 0) with
       clockMoves := [.done (), .ready, .ready, .late ()] }
     s.Inv ∧ s.busy = true ∧ s.resetComes = false ∧ s.pend = some (.delay 2#16 .offered) ∧
      s.clockMoves = [.done ()] ++ .ready :: [.ready, .late ()] ∧ PortMove.ready ∉ [PortMove.done ()] ∧
      PortMove.done () ∉ [PortMove.ready, .late ()]) :=
  ⟨by decide, fun _ => by simp, by decide⟩

/-- Late answers put in around a `ready` and behind it; and a state with no write and no delay taken. -/
theorem witness_LateAnswersAreIgnored :
    let s := ready .ready 0b101#3 [.ok] 1 1
    onTime [.late (.err err0), .ready, .late .ok, .done .ok] = onTime s.busMoves ∧
      onTime [.ready, .late (), .done (), .late ()] = onTime s.clockMoves ∧ s.writeTaken = false ∧ s.delayTaken = false ∧
      (stateOf (exec .clear s)).isSome = true := by decide

/-- Both clauses: a delay that is not over, and an idle block with a partial packet; a reset that comes. -/
theorem witness_ResetFromAnyState :
    (∀ s ∈ [running .clear .ready 1 (some (.delay 2#16 .taken)) (ready .ready 0b101#3 [] 0 0),
        fed [0x40#8] [] (ready .ready 0b101#3 [] 0 0)],
      s.Inv ∧ (s.busMoves = [] ∧ s.clockMoves = [] ∧ s.rspTakes = 0) ∧ s.bytes = [] ∧
        (s.busy = false ∨ s.pend ≠ none)) ∧
    (let s := thenReset noInputs (running .clear .ready 1 (some (.delay 2#16 .taken)) (ready .ready 0b101#3 [] 0 0))
     s.stalled = true ∧ s.afterResets = noInputs :: []) := by decide

/-- An idle state with a partial packet, and a running one in the middle of INIT. -/
theorem witness_StepKeepsTheInvariant :
    (fed [0x40#8, 0x01#8] [0x02#8] (ready .ready 0b111#3 [] 0 0)).Inv ∧
    (running .init .uninitialized 9 (some (.write ⟨0x3E#7, 0x80#8, 0x06#8⟩ .offered))
      (ready .uninitialized 0b100#3 [.ok] 0 1)).Inv := by decide

theorem witness_OnlyTheTwelveFrameKinds :
    let s := running (.writeChar 0x41#8) .ready 0 none (ready .ready 0b100#3 [.ok] 0 1)
    s.Inv ∧ s.traceAllowed = true ∧ (stateOf (step s)).isSome = true := by decide

theorem witness_EventsAccountForInputs :
    (stateOf (step (fed [] [0x02#8] (ready .ready 0b100#3 [.err err0] 1 1)))).isSome = true ∧
    (stateOf (step (thenReset noInputs State.reset))).isSome = true := by decide

theorem witness_ConstantsNeverChange :
    (stateOf (step (fed [] [0x01#8] (ready .uninitialized 0b000#3 (List.replicate 9 .ok) 4 1)))).isSome = true := by
  decide

/-- Both ways: an INIT that reaches OK, and a reset. -/
theorem witness_ModeChangesOnlyByInitAndReset :
    (stateOf (step (fed [] [0x01#8] (ready .uninitialized 0b000#3 (List.replicate 9 .ok) 4 0)))).map (·.mode) =
      some .ready ∧
    (stateOf (step (thenReset noInputs (ready .ready 0b111#3 [] 0 0)))).map (·.mode) = some .uninitialized := by decide

/-- Each of the three flags changed by its writer; C and B cleared and D set by INIT; all three cleared by reset. -/
theorem witness_FlagsChangeOnlyByTheirWriters :
    (stateOf (step (fed [] [0x11#8] (ready .ready 0b000#3 [.ok] 0 1)))).map (fun s => (s.ctrl, s.op)) =
      some (0b100#3, .setDisplay true) ∧
    (stateOf (step (fed [] [0x12#8] (ready .ready 0b111#3 [.ok] 0 1)))).map (fun s => (s.ctrl, s.op)) =
      some (0b101#3, .setCursor false) ∧
    (stateOf (step (fed [] [0x15#8] (ready .ready 0b000#3 [.ok] 0 1)))).map (fun s => (s.ctrl, s.op)) =
      some (0b001#3, .setBlink true) ∧
    (stateOf (step (fed [] [0x01#8] (ready .uninitialized 0b011#3 (List.replicate 9 .ok) 4 1)))).map
      (fun s => (s.ctrl, s.op)) = some (0b100#3, .init) ∧
    (stateOf (step (thenReset noInputs (ready .ready 0b111#3 [] 0 0)))).map (·.ctrl) = some 0b000#3 := by decide

/-- Begun, and taken up again. -/
theorem witness_OperationsRunToResponseOrWait :
    (let s := ready .ready 0b100#3 [] 0 1
     Instr.clear.layer = .host ∧ Instr.clear.wf = true ∧ s.Inv ∧ s.pkt = [] ∧ s.busy = false) ∧
    (let s := running .clear .ready 1 (some (.delay 2#16 .offered)) (ready .ready 0b100#3 [] 1 1)
     s.Inv ∧ s.pkt = [] ∧ s.op = .clear) := by decide

/-- A byte for the idle block, a micro-step to be made, a `ready`, an answer, a delay's end, a take. -/
theorem witness_NothingHangsWithInputsThere :
    ∀ s ∈ [fed [0x40#8] [0x01#8] (ready .ready 0b100#3 [] 0 0), running .clear .ready 2 none (ready .ready 0b100#3 [] 0 0),
        { running .clear .ready 0 (some (.write ⟨0x3E#7, 0x80#8, 0x01#8⟩ .offered)) (ready .ready 0b100#3 [] 0 0) with
          busMoves := [.ready] },
        standing .clear .ready 0b100#3 0 ⟨0x3E#7, 0x80#8, 0x01#8⟩ .taken .ok,
        running .clear .ready 1 (some (.delay 2#16 .offered)) (ready .ready 0b100#3 [] 1 0),
        running .clear .ready 2 (some (.response .ok)) (ready .ready 0b100#3 [] 0 1)],
      s.Inv ∧ s.stalled = false ∧ (stateOf (step s)).isSome = true := by decide

theorem witness_EveryOperationEnds :
    let i := Instr.writeStr [0x41#8]
    let s := ready .ready 0b100#3 [.err err0] 0 1
    isOperation i = true ∧ i.wf = true ∧ s.Inv ∧ s.idle ∧ s.pkt = [] ∧ AnswersThere (mostWrites i) s ∧
      EndsThere (mostDelays i) s ∧ TakesThere 1 s :=
  ⟨rfl, rfl, by decide, ⟨rfl, rfl⟩, rfl, Nat.le_refl 1, Nat.le_refl 0, Nat.le_refl 1⟩

/-- An operation, an illegal byte, and an operation that is refused. -/
theorem witness_EveryPacketGetsOneResponse :
    let is := [Instr.clear, .illegal 0x16#8, .writeChar 0x41#8]
    let s := fed [] [0x02#8, 0x16#8, 0x30#8, 0x41#8] (ready .uninitialized 0b000#3 [.ok, .err err0] 1 3)
    (∀ i ∈ is, i.layer = .host ∧ i.wf = true) ∧ s.Inv ∧ s.idle ∧ s.pkt = [] ∧ s.bytes = is.flatMap encode ∧
      AnswersThere ((is.map mostWrites).sum) s ∧ EndsThere ((is.map mostDelays).sum) s ∧
      TakesThere is.length s :=
  ⟨by decide, by decide, ⟨rfl, rfl⟩, rfl, rfl, Nat.le_refl 2, Nat.le_refl 1, Nat.le_refl 3⟩

/-- CLEAR with its write offered, and every input it can use. -/
def clearToItsEnd : State :=
  running .clear .ready 0 (some (.write ⟨0x3E#7, 0x80#8, 0x01#8⟩ .offered)) (ready .ready 0b100#3 [.ok] 1 1)

/-- INIT's packet, and every input INIT can use. -/
def initWhole : Inputs := ⟨[0x01#8], moves (List.replicate 9 .ok), moves (List.replicate 4 ()), 1⟩

/-- CLEAR with its write taken and never answered; then a reset, and after it an INIT with every input it can use. -/
def clearCutByReset : State :=
  thenReset initWhole
    (running .clear .ready 0 (some (.write ⟨0x3E#7, 0x80#8, 0x01#8⟩ .taken)) (ready .ready 0b100#3 [] 0 0))

theorem clearToItsEnd_premises :
    (BusAnswers clearToItsEnd ∧ ClockEnds clearToItsEnd ∧ HostTakesResponses clearToItsEnd) ∧
      ResetOnlyWhenIdle clearToItsEnd :=
  ⟨nothing_left_standing_iff.2 (.cons rfl rfl (.cons rfl rfl (.rest rfl rfl))),
    .cons (fun _ => rfl) rfl (.cons (fun _ => rfl) rfl (.rest (fun _ => rfl) rfl))⟩

theorem clearCutByReset_premises :
    BusAnswers clearCutByReset ∧ ClockEnds clearCutByReset ∧ HostTakesResponses clearCutByReset :=
  nothing_left_standing_iff.2 (.cons rfl rfl (.cons rfl rfl (.rest rfl rfl)))

/-- R163: a premise reaches past a reset: an `Err` among the answers after it is not `BusAllOk`, and a write that nobody
answers after it is not `BusAnswers`. -/
theorem test_premises_reach_past_resets :
    ¬ BusAllOk (thenReset ⟨[], moves [.err err0], [], 0⟩ State.reset) ∧
    ¬ BusAnswers (thenReset ⟨[0x01#8], [], moves [()], 0⟩ State.reset) :=
  ⟨fun h => absurd (h.2.2 _ (List.mem_singleton.2 rfl) (.err err0) (List.mem_singleton.2 rfl)) (by decide),
    fun h => absurd (h 2 _ rfl _ _ rfl) (by decide)⟩

/-- Both clauses, in the run's first state; the first with a reset that cuts the operation. -/
theorem witness_RunningOperationsEndUnderThePremises :
    (clearCutByReset.Inv ∧ clearCutByReset.busy = true ∧
      BusAnswers clearCutByReset ∧ ClockEnds clearCutByReset ∧ HostTakesResponses clearCutByReset) ∧
    (clearToItsEnd.Inv ∧ clearToItsEnd.busy = true ∧
      (BusAnswers clearToItsEnd ∧ ClockEnds clearToItsEnd ∧ HostTakesResponses clearToItsEnd) ∧
      ResetOnlyWhenIdle clearToItsEnd) :=
  ⟨⟨by decide, rfl, clearCutByReset_premises⟩, by decide, rfl, clearToItsEnd_premises⟩

/-- The run with the reset, which rests after two steps. -/
theorem witness_RunsRestOnlyWhereAllIsDone :
    clearCutByReset.Inv ∧ (BusAnswers clearCutByReset ∧ ClockEnds clearCutByReset ∧ HostTakesResponses clearCutByReset) ∧
      HostCompletesPackets clearCutByReset ∧
      ∃ t, Host.Core.run Sys2Proof.core 2 clearCutByReset = .next t ∧ step t = .next t :=
  ⟨by decide, clearCutByReset_premises,
    ⟨⟨[], fun _ h => absurd h (by simp), rfl⟩, fun i hi => by
      obtain rfl : i = initWhole := by simpa [clearCutByReset, thenReset] using hi
      exact ⟨[.init], by simp [Instr.layer, Instr.wf], rfl⟩⟩,
    _, rfl, rfl⟩

theorem witness_LaterInputsChangeNothing :
    (stateOf (exec .clear (ready .ready 0b100#3 [.ok] 1 1))).map (·.waits) = some false := by decide

theorem witness_NothingIsRememberedOfAnOperation :
    let s := ready .ready 0b100#3 [.err err0] 1 1
    s.idle ∧ (stateOf (exec .clear s)).isSome = true ∧ isOperation .clear = true := ⟨⟨rfl, rfl⟩, by decide, rfl⟩

/-- A write and a delay, offered and taken; a BUS_ERROR response; an idle block. -/
theorem witness_PortsShowTheState :
    (running .clear .ready 0 (some (.write ⟨0x3E#7, 0x80#8, 0x01#8⟩ .offered)) State.reset).pend =
      some (.write ⟨0x3E#7, 0x80#8, 0x01#8⟩ .offered) ∧
    (running .clear .ready 0 (some (.write ⟨0x3E#7, 0x80#8, 0x01#8⟩ .taken)) State.reset).pend =
      some (.write ⟨0x3E#7, 0x80#8, 0x01#8⟩ .taken) ∧
    (running .clear .ready 1 (some (.delay 2#16 .offered)) State.reset).pend = some (.delay 2#16 .offered) ∧
    (running .clear .ready 1 (some (.delay 2#16 .taken)) State.reset).pend = some (.delay 2#16 .taken) ∧
    (running .clear .ready 2 (some (.response (.busError err0))) State.reset).pend =
      some (.response (.busError err0)) ∧
    (∀ e, State.reset.pend ≠ some (.response (.busError e))) ∧ State.reset.idle ∧
    (running .clear .ready 1 none State.reset).mode = .ready ∧ State.reset.busy = false :=
  ⟨rfl, rfl, rfl, rfl, rfl, fun _ => by simp [State.reset], ⟨rfl, rfl⟩, rfl, rfl⟩

end Sys2Proof.Tests
end

section
/-! The facts the proofs below share: what decodes, what a control byte is, which frame an instruction sends, and a step
as the meaning of one instruction. -/

namespace Sys2Proof

/-- A byte that no row of R61 matches stands in R64's list. -/
theorem illegalByte0_of_opKindOf_none : ∀ b : Byte, opKindOf b = none → illegalByte0 b = true := by decide +kernel

/-- What a packet spells is well formed: a string's length is a byte, and an illegal byte is no opcode. -/
theorem decode_wf {bs rest : List Byte} {i : Instr} (h : decode bs = .ok (i, rest)) : i.wf = true := by
  cases bs with
  | nil => cases h
  | cons b bs =>
    simp only [decode] at h
    split at h
    case h_1 hk => cases h; exact illegalByte0_of_opKindOf_none b hk
    case h_9 =>
      split at h
      · rename_i len later
        split at h
        · cases h
          simp only [Instr.wf, List.length_take, decide_eq_true_eq]
          omega
        · cases h
      · cases h
    case h_7 | h_8 | h_10 =>
      split at h
      · cases h; rfl
      · cases h
    all_goals cases h; rfl

/-- Bytes that begin no whole packet are at most 256: the longest packet has 257 (R63). -/
theorem length_le_of_decode_error {bs : List Byte} {e : DecodeError} (h : decode bs = .error e) :
    bs.length ≤ 256 := by
  cases bs with
  | nil => simp
  | cons b bs =>
    simp only [decode] at h
    split at h
    case h_9 =>
      split at h
      · rename_i len later
        split at h
        · cases h
        · have := len.isLt
          simp only [List.length_cons]
          omega
      · simp
    case h_10 =>
      split at h
      · cases h
      · rename_i short
        match bs with
        | [] | [_] | [_, _] => simp
        | x :: y :: z :: l => exact absurd rfl (short x y z l)
    case h_7 | h_8 =>
      split at h
      · cases h
      · simp
    all_goals cases h

end Sys2Proof

namespace Sys2Proof.Machine

open Sys2Proof.Expect

/-- R18 and R55: the control byte is 0x08 with the three flags. -/
theorem crValue_eq_controlByte (ctrl : BitVec 3) :
    crValue ctrl = controlByte (ctrl.getLsbD 2) (ctrl.getLsbD 1) (ctrl.getLsbD 0) := by
  revert ctrl; decide

/-- R18: the control byte's range. -/
theorem crValue_range (ctrl : BitVec 3) : 0x08#8 ≤ crValue ctrl ∧ crValue ctrl ≤ 0x0F#8 := by
  revert ctrl; decide

/-- R18: the low three bits of a byte in the range are the CTRL it is the control byte of. -/
theorem crValue_low_bits (p : Byte) (h1 : 0x08#8 ≤ p) (h2 : p ≤ 0x0F#8) : crValue (p.setWidth 3) = p := by
  revert p; decide +kernel

/-- The control byte of three flags, built into a CTRL value first or written from R55. -/
theorem crValue_ctrlOf (d c b : Bool) : crValue (ctrlOf d c b) = controlByte d c b := by
  revert d c b; decide

/-- The set-DDRAM-address byte is a one and the seven address bits (R53, R56). -/
theorem setDdramByte_eq_append (a : BitVec 7) : setDdramByte a = BitVec.ofBool true ++ a := by
  revert a; decide +kernel

/-- The meaning of a frame instruction is `transact` of the frame that R50 to R59 give it. -/
theorem exec_of_frameOf {i : Instr} {s : State} {f : Frame} (h : frameOf s i = some f) :
    exec i s = .next (transact f s) := by
  cases i <;> simp only [frameOf, Option.some.injEq, reduceCtorEq] at h <;> subst h
  case lcdControl d c b =>
    rw [show lcdCmd s (controlByte d c b) = cmd (crValue (ctrlOf d c b)) s by rw [crValue_ctrlOf]; rfl]
    rfl
  case lcdSetDdram a =>
    rw [show lcdCmd s (BitVec.ofBool true ++ a) = cmd (setDdramByte a) s by rw [setDdramByte_eq_append]; rfl]
    rfl
  all_goals rfl

/-- A step is a reset that comes, or the meaning of one instruction on a state with some of the host's bytes taken, or
the taking of a byte, or nothing. -/
theorem step_exec_cases {s s' : State} (h : step s = .next s') :
    (s.resetComes = true ∧ ∃ i later, s' = applyReset i later s) ∨
    (s.resetComes = false ∧ ∃ i bytes pkt, exec i { s with bytes := bytes, pkt := pkt } = .next s') ∨
    (s.resetComes = false ∧ ∃ bytes pkt, s' = { s with bytes := bytes, pkt := pkt }) := by
  rcases step_cases h with ⟨hr, i, later, -, rfl⟩ | ⟨hr, hg⟩
  · exact .inl ⟨hr, i, later, rfl⟩
  rcases goOn_cases hg with ⟨_, _, i, -, -, he⟩ | ⟨-, -, he⟩ | ⟨-, -, _, later, i, _, -, -, he⟩ |
    ⟨-, -, b, later, _, -, -, rfl⟩ | ⟨-, -, -, rfl⟩
  · exact .inr (.inl ⟨hr, i, s.bytes, s.pkt, he⟩)
  · exact .inr (.inl ⟨hr, s.op, s.bytes, s.pkt, he⟩)
  · exact .inr (.inl ⟨hr, i, later, [], he⟩)
  · exact .inr (.inr ⟨hr, later, s.pkt ++ [b], rfl⟩)
  · exact .inr (.inr ⟨hr, s'.bytes, s'.pkt, rfl⟩)

end Sys2Proof.Machine
end

section
/-! The rows of the step tables, said once as an inductive relation: what a row puts at a port and what it makes of MODE
and CTRL (R86, R100, R101, R105, R108, R120, R133). The facts about rows below are case splits over it. -/

namespace Sys2Proof.Machine

open Sys2Proof.Expect

/-- The flag operations (R102 to R104). -/
def flagOperation (f : Flag) (n : Bool) : Instr :=
  match f with
  | .displayOn => .setDisplay n
  | .cursorOn => .setCursor n
  | .blinkOn => .setBlink n

/-- The last `upc` of a step table; WRITE_STR has one row, gone through once for each byte (R86, R100, R108, R120). -/
def lastRow : Instr → Nat
  | .init => 13
  | .clear => 2
  | .setRgb _ _ _ => 3
  | .setDisplay _ | .setCursor _ | .setBlink _ | .setCursorPosition _ _ | .writeChar _ => 1
  | .writeStr _ | .illegal _ => 0
  | .lcdClear | .lcdEntryMode | .lcdControl _ _ _ | .lcdFunctionSet | .lcdSetDdram _ | .lcdData _ => 0
  | .rgbMode1 | .rgbLedout | .rgbMode2 | .rgbRed _ | .rgbGreen _ | .rgbBlue _ => 0

/-- `Row s i q m c`: the row of `i` at `s.upc` puts the request `q` and leaves MODE `m` and CTRL `c`. -/
inductive Row (s : State) : Instr → Request → Mode → BitVec 3 → Prop
  | initPowerOn (hu : s.upc = 0) : Row s .init (.delay Config.tPowerOn .offered) s.mode 0#3
  | initFunctionSet (hu : s.upc = 1 ∨ s.upc = 3 ∨ s.upc = 5) :
      Row s .init (.write (cmd (functionSetByte s) s) .offered) s.mode s.ctrl
  | initFunctionSetDelay (hu : s.upc = 2 ∨ s.upc = 4) : Row s .init (.delay Config.tFset .offered) s.mode s.ctrl
  | initDisplayOn (hu : s.upc = 6) :
      Row s .init (.write (cmd (crValue (crSet .displayOn s.ctrl)) s) .offered) s.mode (crSet .displayOn s.ctrl)
  | initClear (hu : s.upc = 7) : Row s .init (.write (cmd clearByte s) .offered) s.mode s.ctrl
  | initClearDelay (hu : s.upc = 8) : Row s .init (.delay Config.tClear .offered) s.mode s.ctrl
  | initEntryMode (hu : s.upc = 9) : Row s .init (.write (cmd entryModeByte s) .offered) s.mode s.ctrl
  | initMode1 (hu : s.upc = 10) : Row s .init (.write (reg regMode1 mode1Value s) .offered) s.mode s.ctrl
  | initOutput (hu : s.upc = 11) : Row s .init (.write (reg regOutput outputValue s) .offered) s.mode s.ctrl
  | initMode2 (hu : s.upc = 12) : Row s .init (.write (reg regMode2 mode2Value s) .offered) s.mode s.ctrl
  | initOk (hu : s.upc = 13) : Row s .init (.response .ok) .ready s.ctrl
  | clearWrite (hu : s.upc = 0) : Row s .clear (.write (cmd clearByte s) .offered) s.mode s.ctrl
  | clearDelay (hu : s.upc = 1) : Row s .clear (.delay Config.tClear .offered) s.mode s.ctrl
  | clearStatus (hu : s.upc = 2) : Row s .clear (.response (statusOf s.held)) s.mode s.ctrl
  | flag (f : Flag) (n : Bool) {i : Instr} (hi : i = flagOperation f n) (hu : s.upc = 0) :
      Row s i (.write (cmd (crValue (crUpdate f n s.ctrl)) s) .offered) s.mode (crUpdate f n s.ctrl)
  | cursorPosition (col : Byte) (w : Bool) (hu : s.upc = 0) :
      Row s (.setCursorPosition col w) (.write (cmd (cursorByte col w) s) .offered) s.mode s.ctrl
  | char (c : Byte) (hu : s.upc = 0) : Row s (.writeChar c) (.write (data c s) .offered) s.mode s.ctrl
  | oneWriteOk {i : Instr} (hi : lastRow i = 1) (hu : s.upc = 1) : Row s i (.response .ok) s.mode s.ctrl
  | strByte (str : List Byte) (c : Byte) (hc : str[s.sidx]? = some c) (hu : s.upc = 0) :
      Row s (.writeStr str) (.write (data c s) .offered) s.mode s.ctrl
  | strOk (str : List Byte) (hc : str[s.sidx]? = none) (hu : s.upc = 0) :
      Row s (.writeStr str) (.response .ok) s.mode s.ctrl
  | red (r g b : Byte) (hu : s.upc = 0) : Row s (.setRgb r g b) (.write (reg regRed r s) .offered) s.mode s.ctrl
  | green (r g b : Byte) (hu : s.upc = 1) : Row s (.setRgb r g b) (.write (reg regGreen g s) .offered) s.mode s.ctrl
  | blue (r g b : Byte) (hu : s.upc = 2) : Row s (.setRgb r g b) (.write (reg regBlue b s) .offered) s.mode s.ctrl
  | rgbOk (r g b : Byte) (hu : s.upc = 3) : Row s (.setRgb r g b) (.response .ok) s.mode s.ctrl
  | illegal (b : Byte) : Row s (.illegal b) (.response .illegalCommand) s.mode s.ctrl

/-- A table puts nothing but its rows. -/
theorem row_of_issue {i : Instr} {t : Table} (ht : tableOf i = some t) {s s1 : State} (h : t.issue s = some s1) :
    ∃ q m c, Row s i q m c ∧ s1 = { s with pend := some q, mode := m, ctrl := c } := by
  have flagRow : ∀ f n, oneWriteTable (fun s => s.setCtrl (crUpdate f n s.ctrl)) (fun s => cmd (crValue s.ctrl) s) = t →
      lastRow (flagOperation f n) = 1 →
      ∃ q m c, Row s (flagOperation f n) q m c ∧ s1 = { s with pend := some q, mode := m, ctrl := c } := by
    rintro f n rfl hl
    simp only [oneWriteTable] at h
    split at h <;> cases h
    · exact ⟨_, _, _, .flag f n rfl ‹_›, rfl⟩
    · exact ⟨_, _, _, .oneWriteOk hl ‹_›, rfl⟩
  cases i <;> simp only [tableOf, reduceCtorEq, Option.some.injEq] at ht
  case setDisplay n => exact flagRow .displayOn n ht rfl
  case setCursor n => exact flagRow .cursorOn n ht rfl
  case setBlink n => exact flagRow .blinkOn n ht rfl
  all_goals subst ht
  case init =>
    simp only [initTable, initIssue] at h
    split at h <;> cases h <;> rename_i hu
    · exact ⟨_, _, _, .initPowerOn hu, rfl⟩
    · exact ⟨_, _, _, .initFunctionSet (.inl hu), rfl⟩
    · exact ⟨_, _, _, .initFunctionSetDelay (.inl hu), rfl⟩
    · exact ⟨_, _, _, .initFunctionSet (.inr (.inl hu)), rfl⟩
    · exact ⟨_, _, _, .initFunctionSetDelay (.inr hu), rfl⟩
    · exact ⟨_, _, _, .initFunctionSet (.inr (.inr hu)), rfl⟩
    · exact ⟨_, _, _, .initDisplayOn hu, rfl⟩
    · exact ⟨_, _, _, .initClear hu, rfl⟩
    · exact ⟨_, _, _, .initClearDelay hu, rfl⟩
    · exact ⟨_, _, _, .initEntryMode hu, rfl⟩
    · exact ⟨_, _, _, .initMode1 hu, rfl⟩
    · exact ⟨_, _, _, .initOutput hu, rfl⟩
    · exact ⟨_, _, _, .initMode2 hu, rfl⟩
    · exact ⟨_, _, _, .initOk hu, rfl⟩
  case clear =>
    simp only [clearTable, clearIssue] at h
    split at h
    · cases h; exact ⟨_, _, _, .clearWrite ‹_›, rfl⟩
    · cases h; exact ⟨_, _, _, .clearDelay ‹_›, rfl⟩
    · refine ⟨_, _, _, .clearStatus ‹_›, ?_⟩
      split at h <;> cases h <;> simp [*, statusOf, raise, State.request]
    · cases h
  case writeStr str =>
    simp only [writeStrTable, writeStrIssue] at h
    split at h
    · split at h <;> cases h
      · exact ⟨_, _, _, .strByte str _ ‹_› ‹_›, rfl⟩
      · exact ⟨_, _, _, .strOk str ‹_› ‹_›, rfl⟩
    · cases h
  case setRgb r g b =>
    simp only [setRgbTable, setRgbIssue] at h
    split at h <;> cases h
    · exact ⟨_, _, _, .red r g b ‹_›, rfl⟩
    · exact ⟨_, _, _, .green r g b ‹_›, rfl⟩
    · exact ⟨_, _, _, .blue r g b ‹_›, rfl⟩
    · exact ⟨_, _, _, .rgbOk r g b ‹_›, rfl⟩
  case illegal b =>
    cases h
    exact ⟨_, _, _, .illegal b, rfl⟩
  case setCursorPosition col w =>
    simp only [setCursorPositionTable, oneWriteTable] at h
    split at h <;> cases h
    · exact ⟨_, _, _, .cursorPosition col w ‹_›, rfl⟩
    · exact ⟨_, _, _, .oneWriteOk rfl ‹_›, rfl⟩
  case writeChar c =>
    simp only [writeCharTable, oneWriteTable] at h
    split at h <;> cases h
    · exact ⟨_, _, _, .char c ‹_›, rfl⟩
    · exact ⟨_, _, _, .oneWriteOk rfl ‹_›, rfl⟩

/-- A table puts every one of its rows. -/
theorem issue_of_row {i : Instr} {t : Table} (ht : tableOf i = some t) {s : State} {q : Request} {m : Mode}
    {c : BitVec 3} (h : Row s i q m c) : t.issue s = some { s with pend := some q, mode := m, ctrl := c } := by
  obtain ⟨⟩ := s
  cases h with
  | flag f n hi hu => subst hi; cases hu; cases f <;> cases ht <;> rfl
  | oneWriteOk hi hu => cases hu; cases i <;> cases hi <;> cases ht <;> rfl
  | initFunctionSet hu => cases ht; rcases hu with hu | hu | hu <;> cases hu <;> rfl
  | initFunctionSetDelay hu => cases ht; rcases hu with hu | hu <;> cases hu <;> rfl
  | clearStatus hu => cases ht; cases hu; rename Answer => held; cases held <;> rfl
  | strByte str c hc hu => cases ht; cases hu; simp only [writeStrTable, writeStrIssue, hc]; rfl
  | strOk str hc hu => cases ht; cases hu; simp only [writeStrTable, writeStrIssue, hc]; rfl
  | illegal b => cases ht; rfl
  | _ => rename_i hu; cases ht; cases hu; rfl

theorem lastRow_le (i : Instr) : lastRow i ≤ 13 := by cases i <;> simp [lastRow]

@[simp] theorem crSet_crSet (f : Flag) (c : BitVec 3) : crSet f (crSet f c) = crSet f c := by
  cases f <;> revert c <;> decide

@[simp] theorem crUpdate_crUpdate (f : Flag) (n : Bool) (c : BitVec 3) :
    crUpdate f n (crUpdate f n c) = crUpdate f n c := by
  cases f <;> revert n c <;> decide

/-- Up to its last row a table has rows. -/
theorem row_of_le {i : Instr} {t : Table} (ht : tableOf i = some t) {s : State} (hu : s.upc ≤ lastRow i) :
    ∃ q m c, Row s i q m c := by
  have two : lastRow i = 1 → (∀ h : s.upc = 0, ∃ q m c, Row s i q m c) → ∃ q m c, Row s i q m c := by
    intro hl h0
    obtain h | h : s.upc = 0 ∨ s.upc = 1 := by omega
    · exact h0 h
    · exact ⟨_, _, _, .oneWriteOk hl h⟩
  cases i with
  | init =>
    obtain ⟨u, hs⟩ : ∃ u, s.upc = u := ⟨_, rfl⟩
    simp only [lastRow, hs] at hu
    interval_cases u
    · exact ⟨_, _, _, .initPowerOn hs⟩
    · exact ⟨_, _, _, .initFunctionSet (.inl hs)⟩
    · exact ⟨_, _, _, .initFunctionSetDelay (.inl hs)⟩
    · exact ⟨_, _, _, .initFunctionSet (.inr (.inl hs))⟩
    · exact ⟨_, _, _, .initFunctionSetDelay (.inr hs)⟩
    · exact ⟨_, _, _, .initFunctionSet (.inr (.inr hs))⟩
    · exact ⟨_, _, _, .initDisplayOn hs⟩
    · exact ⟨_, _, _, .initClear hs⟩
    · exact ⟨_, _, _, .initClearDelay hs⟩
    · exact ⟨_, _, _, .initEntryMode hs⟩
    · exact ⟨_, _, _, .initMode1 hs⟩
    · exact ⟨_, _, _, .initOutput hs⟩
    · exact ⟨_, _, _, .initMode2 hs⟩
    · exact ⟨_, _, _, .initOk hs⟩
  | clear =>
    obtain h | h | h : s.upc = 0 ∨ s.upc = 1 ∨ s.upc = 2 := by simp only [lastRow] at hu; omega
    · exact ⟨_, _, _, .clearWrite h⟩
    · exact ⟨_, _, _, .clearDelay h⟩
    · exact ⟨_, _, _, .clearStatus h⟩
  | setDisplay n => exact two rfl fun h => ⟨_, _, _, .flag .displayOn n rfl h⟩
  | setCursor n => exact two rfl fun h => ⟨_, _, _, .flag .cursorOn n rfl h⟩
  | setBlink n => exact two rfl fun h => ⟨_, _, _, .flag .blinkOn n rfl h⟩
  | setCursorPosition col w => exact two rfl fun h => ⟨_, _, _, .cursorPosition col w h⟩
  | writeChar c => exact two rfl fun h => ⟨_, _, _, .char c h⟩
  | writeStr str =>
    cases hc : str[s.sidx]? with
    | some c => exact ⟨_, _, _, .strByte str c hc (Nat.le_zero.1 hu)⟩
    | none => exact ⟨_, _, _, .strOk str hc (Nat.le_zero.1 hu)⟩
  | setRgb r g b =>
    obtain h | h | h | h : s.upc = 0 ∨ s.upc = 1 ∨ s.upc = 2 ∨ s.upc = 3 := by simp only [lastRow] at hu; omega
    · exact ⟨_, _, _, .red r g b h⟩
    · exact ⟨_, _, _, .green r g b h⟩
    · exact ⟨_, _, _, .blue r g b h⟩
    · exact ⟨_, _, _, .rgbOk r g b h⟩
  | illegal b => exact ⟨_, _, _, .illegal b⟩
  | _ => cases ht

/-- A row looks neither at what stands at a port nor at the moves to come there. -/
theorem row_ports {s : State} {i : Instr} {q : Request} {m : Mode} {c : BitVec 3} (h : Row s i q m c)
    (p : Option Request) (bm : List BusMove) (cm : List ClockMove) :
    Row { s with pend := p, busMoves := bm, clockMoves := cm } i q m c := by
  cases h with
  | strOk str hc hu => exact .strOk str hc hu
  | rgbOk r g b hu => exact .rgbOk r g b hu
  | _ => constructor <;> assumption

/-- A row's register update is made once and for all: the row, put again, puts the same request and changes nothing. -/
theorem row_again {s : State} {i : Instr} {q : Request} {m : Mode} {c : BitVec 3} (h : Row s i q m c)
    (p : Option Request) : Row { s with pend := p, mode := m, ctrl := c } i q m c := by
  cases h with
  | initDisplayOn hu =>
    have h := Row.initDisplayOn (s := { s with pend := p, ctrl := crSet .displayOn s.ctrl }) hu
    rwa [crSet_crSet] at h
  | flag f n hi hu =>
    have h := Row.flag (s := { s with pend := p, ctrl := crUpdate f n s.ctrl }) f n hi hu
    rwa [crUpdate_crUpdate] at h
  | strOk str hc hu => exact .strOk str hc hu
  | rgbOk r g b hu => exact .rgbOk r g b hu
  | _ => constructor <;> assumption

/-- After a row that puts no response the table has another row, or, of WRITE_STR, the row was the byte at `sidx`. -/
theorem row_next {s : State} {i : Instr} {q : Request} {m : Mode} {c : BitVec 3} (h : Row s i q m c)
    (hq : ∀ r, q ≠ .response r) :
    (s.upc + 1 ≤ lastRow i ∧ ∀ str, i ≠ .writeStr str) ∨
    (∃ str, i = .writeStr str ∧ s.upc = 0 ∧ s.sidx < str.length ∧ ∃ f, q = .write f .offered) := by
  cases h with
  | strByte str c hc hu => exact .inr ⟨str, rfl, hu, (List.getElem?_eq_some_iff.1 hc).1, _, rfl⟩
  | flag f n hi hu => subst hi; cases f <;> simp [flagOperation, lastRow, hu]
  | initOk | clearStatus | oneWriteOk | strOk | rgbOk | illegal => exact absurd rfl (hq _)
  | initFunctionSet hu => rcases hu with hu | hu | hu <;> simp [lastRow, hu]
  | initFunctionSetDelay hu => rcases hu with hu | hu <;> simp [lastRow, hu]
  | _ => simp [lastRow, *]

/-- Every operation but INIT asks for Ready (R140). -/
theorem requiredMode_eq_ready {i : Instr} {m : Mode} (h : requiredMode i = some m) (hi : i ≠ .init) : m = .ready := by
  cases i with
  | init => exact absurd rfl hi
  | _ => cases h <;> rfl

/-- A status that a row puts fits an operation that the mode admits. -/
theorem row_responseFits {s s1 : State} {i : Instr} {r : Response} {m : Mode} {c : BitVec 3}
    (h : Row s i (.response r) m c) (ha : requiredMode i = some s.mode) (ho : s1.op = i) (hm : s1.mode = m) :
    responseFits r s1 = true := by
  have ok : m = .ready → responseFits .ok s1 = true := by
    intro hr
    simp [responseFits, ho, hm, ha, hr]
  cases h with
  | initOk hu => exact ok rfl
  | clearStatus hu =>
    cases s.held with
    | ok => exact ok (requiredMode_eq_ready ha (by simp))
    | err e => simp [statusOf, responseFits, ho, hm, ha]
  | oneWriteOk hi hu => exact ok (requiredMode_eq_ready ha (by rintro rfl; cases hi))
  | strOk str hc hu => exact ok (requiredMode_eq_ready ha (by simp))
  | rgbOk r g b hu => exact ok (requiredMode_eq_ready ha (by simp))
  | illegal b => cases ha

/-- A row puts its request anew, and leaves MODE unless it puts a response. -/
theorem row_fresh {s : State} {i : Instr} {q : Request} {m : Mode} {c : BitVec 3} (h : Row s i q m c) :
    q.fresh ∧ (m = s.mode ∨ ∃ r, q = .response r) := by
  cases h with
  | initOk hu => exact ⟨by simp, .inr ⟨_, rfl⟩⟩
  | _ => exact ⟨by simp, .inl rfl⟩

/-! ## The frames of the rows -/

theorem frameKind_cmd {s : State} {b : Byte} (h : (decodeLcdFrame s.showFunction 0x80#8 b).isSome = true) :
    (frameKind (cmd b s) s).isSome = true := by
  simp [frameKind, cmd, h]

theorem frameKind_data (c : Byte) (s : State) : (frameKind (data c s) s).isSome = true := by
  simp [frameKind, data, decodeLcdFrame]

theorem frameKind_reg {s : State} {r v : Byte} (h : (decodeRgbFrame r v).isSome = true) :
    (frameKind (reg r v s) s).isSome = true := by
  simp [frameKind, reg, h]

theorem frameKind_control (ctrl : BitVec 3) (s : State) : (frameKind (cmd (crValue ctrl) s) s).isSome = true := by
  have h : crValue ctrl &&& 0xF8#8 = 0x08#8 := by revert ctrl; decide
  apply frameKind_cmd
  simp only [decodeLcdFrame, h]
  split_ifs <;> simp_all

theorem frameKind_cursor (col : Byte) (w : Bool) (s : State) :
    (frameKind (cmd (cursorByte col w) s) s).isSome = true := by
  have h : cursorByte col w &&& 0x80#8 = 0x80#8 := by revert col w; decide +kernel
  apply frameKind_cmd
  simp only [decodeLcdFrame, h]
  split_ifs <;> simp_all

theorem frameKind_functionSet (s : State) : (frameKind (cmd (functionSetByte s) s) s).isSome = true := by
  apply frameKind_cmd
  simp only [decodeLcdFrame, functionSetByte]
  split_ifs <;> simp_all

/-- The write that a row puts is one of the twelve kinds of frame (R65). -/
theorem row_frameKind {s : State} {i : Instr} {f : Frame} {ph : Phase} {m : Mode} {c : BitVec 3}
    (h : Row s i (.write f ph) m c) : (frameKind f s).isSome = true := by
  cases h with
  | initFunctionSet => exact frameKind_functionSet s
  | initDisplayOn | flag => exact frameKind_control _ s
  | initClear | clearWrite | initEntryMode => exact frameKind_cmd (by simp [decodeLcdFrame, clearByte, entryModeByte])
  | cursorPosition col w => exact frameKind_cursor col w s
  | char c | strByte _ c => exact frameKind_data c s
  | initMode1 | initOutput | initMode2 | red | green | blue =>
    exact frameKind_reg (by simp [decodeRgbFrame, regMode1, regMode2, regBlue, regGreen, regRed, regOutput, mode1Value,
      mode2Value, outputValue])

/-! ## What follows an answer or a delay -/

theorem initTable_answered_held {s : State} (hu : s.upc = 7) (a : Answer) :
    initTable.answered a s = (s.hold a).nextUpc := if_pos hu

theorem initTable_answered_other {s : State} (hu : s.upc ≠ 7) (a : Answer) :
    initTable.answered a s = tryAnswer a s := if_neg hu

theorem initTable_delayOver_held {s : State} (hu : s.upc = 8) : initTable.delayOver s = tryAnswer s.held s := if_pos hu

theorem initTable_delayOver_other {s : State} (hu : s.upc ≠ 8) : initTable.delayOver s = s.nextUpc := if_neg hu

/-- After an answer the operation aborts with it, or goes on: to its next row, or WRITE_STR to its next byte. -/
theorem answered_ways {i : Instr} {t : Table} (ht : tableOf i = some t) (a : Answer) (s : State) :
    (∃ e, t.answered a s = raise (.busError e) s) ∨
    (∃ str, i = .writeStr str ∧ t.answered a s = s.nextSidx) ∨
    ((∀ str, i ≠ .writeStr str) ∧ ∃ h, t.answered a s = (s.hold h).nextUpc) := by
  have try_ways : (∃ e, tryAnswer a s = raise (.busError e) s) ∨ ∃ h, tryAnswer a s = (s.hold h).nextUpc := by
    rcases tryAnswer_cases a s with ⟨-, h⟩ | ⟨e, -, h⟩
    · exact .inr ⟨s.held, h⟩
    · exact .inl ⟨e, h⟩
  cases i <;> cases ht
  case writeStr str =>
    cases a with
    | ok => exact .inr (.inl ⟨str, rfl, rfl⟩)
    | err e => exact .inl ⟨e, rfl⟩
  case init =>
    by_cases hu : s.upc = 7
    · exact .inr (.inr ⟨by simp, a, initTable_answered_held hu a⟩)
    · rw [initTable_answered_other hu]
      exact try_ways.imp_right fun h => .inr ⟨by simp, h⟩
  case clear => exact .inr (.inr ⟨by simp, a, rfl⟩)
  all_goals exact try_ways.imp_right fun h => .inr ⟨by simp, h⟩

/-- After a delay INIT aborts with the held error, or the operation goes on to its next row. -/
theorem delayOver_ways {i : Instr} {t : Table} (ht : tableOf i = some t) (s : State) :
    (∃ e, t.delayOver s = raise (.busError e) s) ∨ t.delayOver s = s.nextUpc := by
  cases i <;> cases ht
  case init =>
    by_cases hu : s.upc = 8
    · rw [initTable_delayOver_held hu]
      rcases tryAnswer_cases s.held s with ⟨-, h⟩ | ⟨e, -, h⟩
      · exact .inr h
      · exact .inl ⟨e, h⟩
    · exact .inr (initTable_delayOver_other hu)
  all_goals exact .inr rfl

end Sys2Proof.Machine
end

section
/-! StepKeepsTheInvariant: the invariant in the form its parts are used in, then that every micro-step of a running
operation keeps it, then the step. -/

namespace Sys2Proof.Machine

/-! ## The parts of the invariant -/

/-- A running operation stands at a row, in the mode that admits it, with no response at the host port. -/
structure State.Placed (s : State) : Prop where
  row : ∃ q m c, Row s s.op q m c ∧ (s.pend = none ∨ s.pend.map Request.asPut = some q)
  admitted : requiredMode s.op = some s.mode
  ctrl : s.initCtrl = true
  inString : s.withinString = true

/-- The invariant of a state in which an operation runs. -/
structure State.Running (s : State) : Prop where
  showFunction : s.showFunction = Config.showFunction
  busy : s.busy = true
  wf : s.op.wf = true
  host : s.op.layer = .host
  pkt : s.pkt = []
  upc : s.upc ≤ 13
  sidx : s.sidx ≤ 255
  placed : (∃ r, s.pend = some (.response r) ∧ responseFits r s = true) ∨
    ((∀ r, s.pend ≠ some (.response r)) ∧ s.Placed)

/-- A host operation has a step table. -/
theorem tableOf_host {i : Instr} (h : i.layer = .host) : ∃ t, tableOf i = some t := by
  obtain ⟨t, -, ht, -⟩ := exec_operates i h
  exact ⟨t, ht⟩

theorem atRow_iff {s : State} (h : s.op.layer = .host) :
    s.atRow = true ↔ ∃ q m c, Row s s.op q m c ∧ (s.pend = none ∨ s.pend.map Request.asPut = some q) := by
  obtain ⟨t, ht⟩ := tableOf_host h
  constructor
  · intro ha
    simp only [State.atRow, ht] at ha
    split at ha
    · cases ha
    · rename_i s1 hi
      obtain ⟨q, m, c, hr, rfl⟩ := row_of_issue ht hi
      exact ⟨q, m, c, row_ports hr s.pend s.busMoves s.clockMoves, by simpa using ha⟩
  · rintro ⟨q, m, c, hr, hp⟩
    simp only [State.atRow, ht, issue_of_row ht (row_ports hr none s.busMoves s.clockMoves)]
    simpa using hp

theorem runs_iff {s : State} (h : s.op.layer = .host) :
    s.runs = true ↔ (∃ r, s.pend = some (.response r) ∧ responseFits r s = true) ∨
      ((∀ r, s.pend ≠ some (.response r)) ∧ s.Placed) := by
  have placed : (s.atRow && requiredMode s.op == some s.mode && s.initCtrl && s.withinString) = true ↔ s.Placed := by
    simp only [Bool.and_eq_true, atRow_iff h, beq_iff_eq]
    exact ⟨fun ⟨⟨⟨h1, h2⟩, h3⟩, h4⟩ => ⟨h1, h2, h3, h4⟩, fun ⟨h1, h2, h3, h4⟩ => ⟨⟨⟨h1, h2⟩, h3⟩, h4⟩⟩
  cases hp : s.pend with
  | none => simp [State.runs, hp, placed]
  | some q => cases q <;> simp [State.runs, hp, placed]

theorem widths_iff {s : State} : s.widths = true ↔
    s.upc ≤ 13 ∧ s.sidx ≤ 255 ∧ s.pkt.length ≤ 256 ∧ s.op.wf = true ∧ s.op.layer = .host := by
  simp only [State.widths, Bool.and_eq_true, decide_eq_true_eq, beq_iff_eq, and_assoc]

theorem pktPartial_iff {s : State} : s.pktPartial = true ↔ ∃ e, decode s.pkt = .error e := by
  cases h : decode s.pkt <;> simp [State.pktPartial, h]

/-- The invariant, of a block in which an operation runs and of an idle one. -/
theorem inv_iff {s : State} :
    s.Inv ↔ s.Running ∨
      (s.showFunction = Config.showFunction ∧ s.widths = true ∧ s.pktPartial = true ∧ s.busy = false ∧
        s.pend = none) := by
  cases hb : s.busy with
  | false =>
    simp only [State.Inv, State.inv, hb, Bool.false_eq_true, if_false, Bool.and_eq_true, beq_iff_eq]
    constructor
    · rintro ⟨⟨⟨h1, h2⟩, h3⟩, h4⟩
      exact .inr ⟨h1, h2, h3, trivial, h4⟩
    · rintro (h | ⟨h1, h2, h3, -, h4⟩)
      · cases hb.symm.trans h.busy
      · exact ⟨⟨⟨h1, h2⟩, h3⟩, h4⟩
  | true =>
    simp only [State.Inv, State.inv, hb, if_true, Bool.and_eq_true, beq_iff_eq, List.isEmpty_iff, widths_iff]
    constructor
    · rintro ⟨⟨⟨h1, hu, hx, -, hw, hl⟩, -⟩, hp, hr⟩
      exact .inl ⟨h1, hb, hw, hl, hp, hu, hx, (runs_iff hl).1 hr⟩
    · rintro (h | ⟨-, -, -, h, -⟩)
      · exact ⟨⟨⟨h.showFunction, h.upc, h.sidx, by simp [h.pkt], h.wf, h.host⟩,
          pktPartial_iff.2 ⟨.empty, by rw [h.pkt]; rfl⟩⟩, h.pkt, (runs_iff h.host).2 h.placed⟩
      · cases h

/-! ## INIT's CTRL -/

theorem initCtrl_of_other {s : State} (h : s.op ≠ .init) : s.initCtrl = true := by simp [State.initCtrl, h]

/-- A row of INIT brings CTRL as far as its request says (R86, R92). -/
theorem initCtrl_row {s : State} {q : Request} {m : Mode} {c : BitVec 3} (h : Row s s.op q m c) (hp : s.pend = none)
    (hc : s.initCtrl = true) : { s with pend := some q, mode := m, ctrl := c }.initCtrl = true := by
  by_cases ho : s.op = .init
  case neg => exact initCtrl_of_other ho
  rw [ho] at h
  simp only [State.initCtrl, ho, hp] at hc ⊢
  cases h with
  | flag f n hi => cases f <;> cases hi
  | oneWriteOk hi => cases hi
  | initPowerOn hu => simp [hu]
  | initDisplayOn hu =>
    have h0 : s.ctrl = 0#3 := by simpa [hu] using hc
    simp [hu, h0, crSet, flagMask]
  | initFunctionSet hu => rcases hu with hu | hu | hu <;> simp_all
  | initFunctionSetDelay hu => rcases hu with hu | hu <;> simp_all
  | _ => simp_all

/-- When a request of INIT is answered and the next row is reached, CTRL is as that row finds it. -/
theorem initCtrl_next {s s' : State} (hc : s.initCtrl = true) (hp : s.pend ≠ none) (ho : s'.op = s.op)
    (hu : s'.upc = s.upc + 1) (hct : s'.ctrl = s.ctrl) (hp' : s'.pend = none) : s'.initCtrl = true := by
  simp only [State.initCtrl, ho, hu, hct, hp', Bool.or_eq_true, Bool.and_eq_true, bne_iff_ne, beq_iff_eq,
    decide_eq_true_eq] at hc ⊢
  rcases hc with ((h | ⟨-, h⟩) | ⟨⟨hle, h0⟩, h6⟩) | ⟨⟨hle, h4⟩, -⟩
  · exact .inl (.inl (.inl h))
  · exact absurd h hp
  · have : s.upc ≠ 6 := h6.resolve_right hp
    exact .inl (.inr ⟨⟨by omega, h0⟩, by simp⟩)
  · exact .inr ⟨⟨by omega, h4⟩, .inl (by omega)⟩

/-! ## What a micro-step keeps -/

theorem asPut_fresh {q : Request} (h : q.fresh) : q.asPut = q := by
  obtain ⟨hw, hd⟩ := h
  rcases q with ⟨f, _ | _⟩ | ⟨n, _ | _⟩ | r
  · rfl
  · exact absurd rfl (hw f)
  · rfl
  · exact absurd rfl (hd n)
  · rfl

/-- With nothing at its ports, a running operation stands at a row. -/
theorem State.Running.at_row {s : State} (h : s.Running) (hp : s.pend = none) : s.Placed := by
  rcases h.placed with ⟨r, hr, -⟩ | ⟨-, h⟩
  · rw [hp] at hr; cases hr
  · exact h

/-- A running operation with nothing at its ports has a row to put. -/
theorem State.Running.issues {s : State} {t : Table} (h : s.Running) (ht : tableOf s.op = some t)
    (hp : s.pend = none) : ∃ s1, t.issue s = some s1 := by
  obtain ⟨q, m, c, hr, -⟩ := (h.at_row hp).row
  exact ⟨_, issue_of_row ht hr⟩

theorem State.Running.issue {s s1 : State} {t : Table} (h : s.Running) (ht : tableOf s.op = some t)
    (hp : s.pend = none) (hi : t.issue s = some s1) : s1.Running := by
  obtain ⟨-, ha, hc, hs⟩ := h.at_row hp
  obtain ⟨q, m, c, hr, rfl⟩ := row_of_issue ht hi
  refine ⟨h.showFunction, h.busy, h.wf, h.host, h.pkt, h.upc, h.sidx, ?_⟩
  by_cases hq : ∃ r, q = .response r
  · obtain ⟨r, rfl⟩ := hq
    exact .inl ⟨r, rfl, row_responseFits hr ha rfl rfl⟩
  · obtain ⟨hf, hm⟩ := row_fresh hr
    have hm : m = s.mode := hm.resolve_right hq
    refine .inr ⟨fun r h => hq ⟨r, by simpa using h⟩, ?_⟩
    exact ⟨⟨q, m, c, row_again hr (some q), .inr (by simp [asPut_fresh hf])⟩, by rw [hm]; exact ha,
      initCtrl_row hr hp hc, hs⟩

/-- The operation aborts on a bus error. -/
theorem State.Running.abort {s : State} (h : s.Running) (hp : ∀ r, s.pend ≠ some (.response r)) (e : BusErr)
    (b : List BusMove) (c : List ClockMove) (tr : List Event) :
    { s with pend := some (.response (.busError e)), busMoves := b, clockMoves := c, trace := tr }.Running := by
  refine ⟨h.showFunction, h.busy, h.wf, h.host, h.pkt, h.upc, h.sidx, .inl ⟨_, rfl, ?_⟩⟩
  rcases h.placed with ⟨r, hr, -⟩ | ⟨-, hpl⟩
  · exact absurd hr (hp r)
  · simpa [responseFits] using hpl.admitted

/-- The operation goes on to its next row. -/
theorem State.Running.next {s : State} (h : s.Running) (hpl : s.Placed) (hp : s.pend ≠ none)
    (hu : s.upc + 1 ≤ lastRow s.op) (a : Answer) (b : List BusMove) (c : List ClockMove) (tr : List Event) :
    { s with pend := none, upc := s.upc + 1, held := a, busMoves := b, clockMoves := c, trace := tr }.Running := by
  obtain ⟨t, ht⟩ := tableOf_host h.host
  refine ⟨h.showFunction, h.busy, h.wf, h.host, h.pkt, hu.trans (lastRow_le _), h.sidx,
    .inr ⟨by simp, ?_, ?_, ?_, ?_⟩⟩
  · obtain ⟨q, m, c, hr⟩ := row_of_le (i := s.op) ht
      (s := { s with pend := none, upc := s.upc + 1, held := a, busMoves := b, clockMoves := c, trace := tr }) hu
    exact ⟨q, m, c, hr, .inl rfl⟩
  · exact hpl.admitted
  · exact initCtrl_next hpl.ctrl hp rfl rfl rfl rfl
  · exact hpl.inString

/-- WRITE_STR goes on to its next byte. -/
theorem State.Running.nextByte {s : State} (h : s.Running) (hpl : s.Placed) {str : List Byte}
    (ho : s.op = .writeStr str) (hu : s.upc = 0) (hx : s.sidx < str.length) (b : List BusMove) (tr : List Event) :
    { s with pend := none, sidx := s.sidx + 1, busMoves := b, trace := tr }.Running := by
  have hl : str.length ≤ 255 := by simpa [Instr.wf, ho] using h.wf
  obtain ⟨t, ht⟩ := tableOf_host h.host
  refine ⟨h.showFunction, h.busy, h.wf, h.host, h.pkt, h.upc, by simp; omega, .inr ⟨by simp, ?_, ?_, ?_, ?_⟩⟩
  · obtain ⟨q, m, c, hr⟩ := row_of_le (i := s.op) ht
      (s := { s with pend := none, sidx := s.sidx + 1, busMoves := b, trace := tr }) (by simp [hu])
    exact ⟨q, m, c, hr, .inl rfl⟩
  · exact hpl.admitted
  · exact initCtrl_of_other (by simp [ho])
  · simp only [State.withinString, ho, decide_eq_true_eq]
    omega

/-- Where a request that wants an answer stands, the operation is at the row that put it, and has a next row. -/
theorem State.Running.standing {s : State} {q : Request} (h : s.Running) (hp : s.pend = some q)
    (hq : ∀ r, q ≠ .response r) :
    s.Placed ∧ (∃ m c, Row s s.op q.asPut m c) ∧ ((s.upc + 1 ≤ lastRow s.op ∧ ∀ str, s.op ≠ .writeStr str) ∨
      (∃ str, s.op = .writeStr str ∧ s.upc = 0 ∧ s.sidx < str.length ∧ ∃ f, q.asPut = .write f .offered)) := by
  rcases h.placed with ⟨r, hr, -⟩ | ⟨-, hpl⟩
  · rw [hp] at hr; cases hr; exact absurd rfl (hq r)
  · obtain ⟨q', m, c, hr, hq'⟩ := hpl.row
    obtain rfl : q.asPut = q' := by simpa [hp] using hq'
    exact ⟨hpl, ⟨m, c, hr⟩, row_next hr (by cases q <;> simp_all [Request.asPut])⟩

theorem State.Running.answered {s : State} {t : Table} {f : Frame} {ph : Phase} (h : s.Running)
    (ht : tableOf s.op = some t) (hp : s.pend = some (.write f ph)) (a : Answer) (m : List BusMove) :
    (t.answered a (answerWrite f a m s)).Running := by
  obtain ⟨hpl, -, hn⟩ := h.standing hp (by simp)
  rcases answered_ways ht a (answerWrite f a m s) with ⟨e, he⟩ | ⟨str, ho, he⟩ | ⟨hstr, x, he⟩ <;> rw [he]
  · exact h.abort (by simp [hp]) e m s.clockMoves _
  · obtain ⟨-, hne⟩ | ⟨str', ho', hu, hx, -⟩ := hn
    · exact absurd ho (hne str)
    · exact h.nextByte hpl ho' hu hx m _
  · obtain ⟨hu, -⟩ | ⟨str, ho, -⟩ := hn
    · exact h.next hpl (by simp [hp]) hu x m s.clockMoves _
    · exact absurd ho (hstr str)

theorem State.Running.delayOver {s : State} {t : Table} {n : Millis} {ph : Phase} (h : s.Running)
    (ht : tableOf s.op = some t) (hp : s.pend = some (.delay n ph)) (m : List ClockMove) :
    (t.delayOver (endDelay n m s)).Running := by
  obtain ⟨hpl, -, hn⟩ := h.standing hp (by simp)
  rcases delayOver_ways ht (endDelay n m s) with ⟨e, he⟩ | he <;> rw [he]
  · exact h.abort (by simp [hp]) e s.busMoves m _
  · obtain ⟨hu, -⟩ | ⟨_, -, -, -, f, hf⟩ := hn
    · exact h.next hpl (by simp [hp]) hu s.held s.busMoves m _
    · cases hf

/-- A request that is taken is still its row's. -/
theorem State.Running.taken {s : State} (h : s.Running) : (takeRequest s).Running := by
  have moved : ∀ q q' b c, s.pend = some q → (∀ r, q ≠ .response r) → q'.asPut = q.asPut →
      (∀ r, q' ≠ .response r) → { s with pend := some q', busMoves := b, clockMoves := c }.Running := by
    intro q q' b c hp hq hqq hq'
    obtain ⟨⟨-, ha, hc, hs⟩, ⟨m, x, hr⟩, -⟩ := h.standing hp hq
    refine ⟨h.showFunction, h.busy, h.wf, h.host, h.pkt, h.upc, h.sidx, .inr ⟨by simpa using hq', ?_, ha, ?_, hs⟩⟩
    · exact ⟨_, m, x, row_ports hr (some q') b c, .inr (by simp [hqq])⟩
    · simpa [State.initCtrl, hp] using hc
  rcases takeRequest_cases s with he | ⟨f, l, hp, -, he⟩ | ⟨n, l, hp, -, he⟩ <;> rw [he]
  · exact h
  · exact moved _ _ l s.clockMoves hp (by simp) rfl (by simp)
  · exact moved _ _ s.busMoves l hp (by simp) rfl (by simp)

/-! ## An operation, from where it is taken up or from its acceptance -/

/-- The response given, the block is idle and meets the invariant. -/
theorem State.Running.given {s : State} (h : s.Running) (r : Response) (later : Nat) :
    (giveResponse r { s with rspTakes := later }).Inv := by
  refine inv_iff.2 (.inr ⟨h.showFunction, ?_, ?_, rfl, rfl⟩)
  · exact widths_iff.2 ⟨h.upc, h.sidx, by simp [h.pkt], h.wf, h.host⟩
  · exact pktPartial_iff.2 ⟨.empty, by rw [giveResponse_pkt, h.pkt]; rfl⟩

/-- The table of a running operation never loses it: its run answers a next state, which meets the invariant. -/
theorem State.Running.run {t : Table} : ∀ (n : Nat) {s : State}, s.Running → tableOf s.op = some t →
    ∃ s', Machine.run t n s = .next s' ∧ s'.Inv := by
  intro n
  induction n with
  | zero => exact fun h _ => ⟨_, rfl, inv_iff.2 (.inl h)⟩
  | succ n ih =>
    intro s h ht
    obtain ⟨s1, hi, h1, ho⟩ : ∃ s1, issueIfFree t s = some s1 ∧ s1.Running ∧ s1.op = s.op := by
      cases hp : s.pend with
      | some q => exact ⟨s, issueIfFree_standing t hp, h, rfl⟩
      | none =>
        obtain ⟨s1, hi⟩ := h.issues ht hp
        obtain ⟨_, _, _, -, rfl⟩ := row_of_issue ht hi
        exact ⟨_, (issueIfFree_free t hp).trans hi, h.issue ht hp hi, rfl⟩
    rw [← ho] at ht
    rcases settle_cases t s1 with ⟨hs, -⟩ | ⟨f, ph, a, m, hp, -, hs⟩ | ⟨d, ph, m, hp, -, hs⟩ | ⟨r, later, -, -, hs⟩
    · exact ⟨_, run_waits t n hi hs, inv_iff.2 (.inl h1.taken)⟩
    · rw [run_goesOn t n hi hs]
      obtain ⟨_, _, _, _, he, -⟩ := answered_cases ht a (answerWrite f a m s1)
      exact ih (h1.answered ht hp a m) (by rw [he]; exact ht)
    · rw [run_goesOn t n hi hs]
      obtain ⟨_, _, he, -⟩ := delayOver_cases ht (endDelay d m s1)
      exact ih (h1.delayOver ht hp m) (by rw [he]; exact ht)
    · exact ⟨_, run_ended t n hi hs, h1.given r later⟩

/-- A running operation taken up. -/
theorem exec_running {s : State} (h : s.Running) : ∃ s', exec s.op s = .next s' ∧ s'.Inv := by
  obtain ⟨t, acc, ht, he, -⟩ := exec_operates s.op h.host
  rw [he, operate_running h.busy rfl]
  exact h.run _ ht

/-- A well-formed host instruction accepted by an idle block runs. -/
theorem exec_accepted {i : Instr} {s : State} (hl : i.layer = .host) (hw : i.wf = true)
    (hsf : s.showFunction = Config.showFunction) (hpk : s.pkt = []) (hb : s.busy = false) (hp : s.pend = none) :
    ∃ s', exec i s = .next s' ∧ s'.Inv := by
  obtain ⟨t, acc, ht, he, hacc⟩ := exec_operates i hl
  rw [he, operate_idle hb hp]
  rcases hacc with ⟨m, hm, rfl⟩ | ⟨hm, rfl⟩
  · obtain ⟨p, ha, hmp⟩ := accept_cases m i s
    rw [ha]
    refine State.Running.run _ ⟨hsf, rfl, hw, hl, hpk, by simp, by simp, ?_⟩ ht
    rcases hmp with ⟨hm', rfl⟩ | ⟨hm', rfl⟩
    · refine .inr ⟨by simp [hp], ?_, by simpa [hm'] using hm, by simp [State.initCtrl, hp], ?_⟩
      · obtain ⟨q, x, c, hr⟩ := row_of_le ht
          (s := { latch i s with trace := s.trace ++ [.op i], pend := s.pend }) (by simp)
        exact ⟨q, x, c, hr, .inl hp⟩
      · cases i <;> simp [State.withinString]
    · exact .inl ⟨_, rfl, by simp [responseFits, hm, Ne.symm hm']⟩
  · refine State.Running.run _ ⟨hsf, rfl, hw, hl, hpk, by simp [acceptIllegal], by simp [acceptIllegal],
      .inl ⟨_, rfl, ?_⟩⟩ ht
    simp [responseFits, acceptIllegal, hm]

/-! ## The step -/

/-- A write that stands is run as its frame, which is one of the twelve kinds. -/
theorem goOn_standing_write {s : State} {f : Frame} {ph : Phase} (h : s.Running) (hp : s.pend = some (.write f ph)) :
    ∃ s', goOn s = .next s' ∧ s'.Inv := by
  obtain ⟨-, ⟨m, c, hr⟩, -⟩ := h.standing hp (by simp)
  obtain ⟨i, hi⟩ := Option.isSome_iff_exists.1 (row_frameKind hr)
  obtain ⟨fr, he⟩ := exec_sends i (frameKind_layer hi)
  refine ⟨transact (fr s) s, by simp [goOn, hp, hi, he], inv_iff.2 (.inl ?_)⟩
  rcases transact_cases (fr s) s with ⟨ht, -⟩ | ⟨s0, ⟨ph', rfl, hp'⟩ | ⟨-, hn, -⟩, ht⟩
  · rw [ht]; exact h
  · rcases ht with ⟨-, ht, -⟩ | ⟨a, m, -, ht⟩ <;> rw [ht]
    · exact h.taken
    · obtain ⟨t, htab⟩ := tableOf_host h.host
      rw [react_running (s := answerWrite (fr s0) a m s0) a h.busy htab]
      exact h.answered htab hp' a m
  · rw [hp] at hn; cases hn

theorem goOn_running {s : State} (h : s.Running) : ∃ s', goOn s = .next s' ∧ s'.Inv := by
  cases hp : s.pend with
  | none => simpa [goOn, hp, h.busy] using exec_running h
  | some q =>
    cases q with
    | write f ph => exact goOn_standing_write h hp
    | delay n ph => simpa [goOn, hp] using exec_running h
    | response r => simpa [goOn, hp] using exec_running h

/-- An idle block takes a byte, and runs the packet that it makes whole. -/
theorem goOn_idle {s : State} (hsf : s.showFunction = Config.showFunction) (hw : s.widths = true)
    (hpp : s.pktPartial = true) (hb : s.busy = false) (hp : s.pend = none) : ∃ s', goOn s = .next s' ∧ s'.Inv := by
  cases hm : s.bytes with
  | nil => exact ⟨s, by simp [goOn, hp, hb, hm], inv_iff.2 (.inr ⟨hsf, hw, hpp, hb, hp⟩)⟩
  | cons b later =>
    cases hd : decode (s.pkt ++ [b]) with
    | ok r =>
      obtain ⟨i, rest⟩ := r
      obtain ⟨s', he, hi⟩ := exec_accepted (s := { s with bytes := later, pkt := [] }) (decode_layer hd) (decode_wf hd)
        hsf rfl hb hp
      exact ⟨s', by simpa [goOn, hp, hb, hm, takeByte, hd] using he, hi⟩
    | error e =>
      refine ⟨{ s with bytes := later, pkt := s.pkt ++ [b] }, by simp [goOn, hp, hb, hm, takeByte, hd], ?_⟩
      obtain ⟨hu, hx, -, ho, hl⟩ := widths_iff.1 hw
      exact inv_iff.2 (.inr ⟨hsf, widths_iff.2 ⟨hu, hx, length_le_of_decode_error hd, ho, hl⟩, pktPartial_iff.2 ⟨e, hd⟩,
        hb, hp⟩)

/-- A reset keeps the widths, which are all that is left to keep (R21). -/
theorem inv_applyReset {s : State} (hs : s.Inv) (i : Inputs) (later : List Inputs) : (applyReset i later s).Inv := by
  have widths : s.upc ≤ 13 → s.sidx ≤ 255 → s.op.wf = true → s.op.layer = .host →
      (applyReset i later s).widths = true := fun hu hx hw hl => widths_iff.2 ⟨hu, hx, by simp, hw, hl⟩
  rcases inv_iff.1 hs with h | ⟨hsf, hw, -⟩
  · exact inv_iff.2 (.inr ⟨h.showFunction, widths h.upc h.sidx h.wf h.host, rfl, rfl, rfl⟩)
  · obtain ⟨hu, hx, -, ho, hl⟩ := widths_iff.1 hw
    exact inv_iff.2 (.inr ⟨hsf, widths hu hx ho hl, rfl, rfl, rfl⟩)

/-- Settles O45: a step is a reset, which keeps the widths, or it takes up a running operation, or it gives the
idle block a byte. -/
theorem stepKeepsTheInvariant : Obligations.StepKeepsTheInvariant := by
  intro s hs
  rcases step_split s with ⟨-, i, later, -, h⟩ | ⟨-, h⟩ <;> rw [h]
  · exact ⟨_, rfl, inv_applyReset hs i later⟩
  · rcases inv_iff.1 hs with h | ⟨hsf, hw, hpp, hb, hp⟩
    · exact goOn_running h
    · exact goOn_idle hsf hw hpp hb hp

end Sys2Proof.Machine
end

section
/-! What no instruction touches, and what changes MODE and CTRL (ConstantsNeverChange, ModeChangesOnlyByInitAndReset,
FlagsChangeOnlyByTheirWriters). -/

namespace Sys2Proof.Machine

open Sys2Proof.Expect

/-! ## The constants, the host's stream and the coming resets -/

theorem untouched_refl (s : State) : Untouched s s := ⟨rfl, rfl, rfl, rfl, rfl, rfl⟩

theorem untouched_trans {s t u : State} (h : Untouched s t) (h' : Untouched t u) : Untouched s u :=
  ⟨h'.addrLcd.trans h.addrLcd, h'.addrRgb.trans h.addrRgb, h'.showFunction.trans h.showFunction, h'.bytes.trans h.bytes,
    h'.afterResets.trans h.afterResets, h'.pkt.trans h.pkt⟩

theorem untouched_takeRequest (s : State) : Untouched s (takeRequest s) := by constructor <;> simp

/-- No instruction touches the constants, the host's stream, the partial packet or the coming resets. -/
theorem exec_untouched {i : Instr} {s t : State} (h : exec i s = .next t) : Untouched s t := by
  by_cases hl : i.layer = .host
  · have hk : t = s ∨ Untouched s t ∨ Untouched s t := by
      refine exec_host_keeps i hl (Untouched s) (Untouched s) (fun _ _ => untouched_refl s) ?_
        (fun _ _ _ => ⟨rfl, rfl, rfl, rfl, rfl, rfl⟩) ?_ (fun s0 h0 => untouched_trans h0 (untouched_takeRequest s0))
        ?_ ?_ ?_ h
      · intro m _ _ _
        obtain ⟨p, ha, -⟩ := accept_cases m i s
        rw [ha]
        exact ⟨rfl, rfl, rfl, rfl, rfl, rfl⟩
      · exact fun s0 q m c h0 _ _ _ => untouched_trans h0 ⟨rfl, rfl, rfl, rfl, rfl, rfl⟩
      · exact fun s0 f ph a m p u x hd h0 _ _ _ => untouched_trans h0 ⟨rfl, rfl, rfl, rfl, rfl, rfl⟩
      · exact fun s0 n ph m p u h0 _ _ _ => untouched_trans h0 ⟨rfl, rfl, rfl, rfl, rfl, rfl⟩
      · exact fun s0 r later h0 _ _ => untouched_trans h0 ⟨rfl, rfl, rfl, rfl, rfl, rfl⟩
    rcases hk with rfl | hk | hk
    · exact untouched_refl t
    · exact hk
    · exact hk
  · rcases exec_frame_cases i hl h with rfl | ⟨f, s0, hs0, ⟨-, rfl, -⟩ | ⟨a, m, p, u, x, hd, -, rfl, -⟩⟩
    · exact untouched_refl t
    · rcases hs0 with ⟨ph, rfl, -⟩ | ⟨rfl, -⟩
      · exact untouched_takeRequest s0
      · exact untouched_trans (t := sendFrame f s) ⟨rfl, rfl, rfl, rfl, rfl, rfl⟩ (untouched_takeRequest _)
    · exact ⟨rfl, rfl, rfl, rfl, rfl, rfl⟩

/-- Settles O48: a reset, every instruction and the taking of a byte leave the constants. -/
theorem constantsNeverChange : Obligations.ConstantsNeverChange := by
  intro s t h
  rcases step_exec_cases h with ⟨-, i, later, rfl⟩ | ⟨-, i, bytes, pkt, he⟩ | ⟨-, bytes, pkt, rfl⟩
  · exact ⟨rfl, rfl, rfl⟩
  · have hu := exec_untouched he
    exact ⟨hu.addrLcd, hu.addrRgb, hu.showFunction⟩
  · exact ⟨rfl, rfl, rfl⟩

/-! ## MODE -/

/-- While an operation `i` taken up at `s` runs: MODE is as it was, or INIT has put its OK. -/
structure ModeKept (i : Instr) (s u : State) : Prop where
  op : u.op = i
  trace : s.trace <+: u.trace
  mode : u.mode = s.mode ∨ (i = .init ∧ u.mode = .ready ∧ u.upc = 13 ∧ u.pend = some (.response .ok))

/-- The same when the response has been given. -/
def ModeKeptGiven (i : Instr) (s u : State) : Prop :=
  u.mode = s.mode ∨
    (i = .init ∧ u.op = .init ∧ u.mode = .ready ∧ u.upc = 13 ∧ ∃ evs, u.trace = s.trace ++ (evs ++ [.rsp .ok]))

/-- With a request standing that wants an answer, MODE is as it was. -/
theorem ModeKept.same {i : Instr} {s u : State} (h : ModeKept i s u) (hp : u.pend ≠ some (.response .ok)) :
    u.mode = s.mode := h.mode.resolve_right fun ⟨_, _, _, hr⟩ => hp hr

theorem ModeKept.taken {i : Instr} {s u : State} (h : ModeKept i s u) : ModeKept i s (takeRequest u) := by
  rcases takeRequest_cases u with he | ⟨f, l, hp, -, he⟩ | ⟨n, l, hp, -, he⟩ <;> rw [he]
  · exact h
  · exact ⟨h.op, h.trace, .inl (h.same (by simp [hp]))⟩
  · exact ⟨h.op, h.trace, .inl (h.same (by simp [hp]))⟩

theorem ModeKept.given {i : Instr} {s u : State} {r : Response} (h : ModeKept i s u) (hp : u.pend = some (.response r))
    (later : Nat) : ModeKeptGiven i s (giveResponse r { u with rspTakes := later }) := by
  obtain ⟨evs, ht⟩ := h.trace
  rcases h.mode with hm | ⟨rfl, hm, hu, hr⟩
  · exact .inl hm
  · rw [hp] at hr
    cases hr
    exact .inr ⟨rfl, h.op, hm, hu, evs, by simp [← ht]⟩

/-- An instruction leaves MODE, unless it is an INIT that puts its OK. -/
theorem exec_mode {i : Instr} {s t : State} (h : exec i s = .next t) :
    ModeKept i s t ∨ ModeKeptGiven i s t := by
  by_cases hl : i.layer = .host
  · refine (exec_host_keeps i hl (ModeKept i s) (ModeKeptGiven i s)
      (fun _ ho => ⟨ho, List.prefix_rfl, .inl rfl⟩) ?_ (fun _ _ _ => ⟨rfl, List.prefix_rfl, .inl rfl⟩) ?_
      (fun _ h0 => h0.taken) ?_ ?_ (fun _ _ later h0 hp _ => h0.given hp later) h).elim
      (fun he => .inr (.inl (by rw [he]))) id
    · intro m _ _ _
      obtain ⟨p, ha, -⟩ := accept_cases m i s
      rw [ha]
      exact ⟨rfl, List.prefix_append _ _, .inl rfl⟩
    · rintro s0 q m c h0 hp - (rfl | ⟨rfl, hu, rfl, rfl⟩)
      · exact ⟨h0.op, h0.trace, .inl (h0.same (by simp [hp]))⟩
      · exact ⟨h0.op, h0.trace, .inr ⟨rfl, rfl, hu, rfl⟩⟩
    · intro s0 f ph a m p u x hd h0 hp _ _
      exact ⟨h0.op, h0.trace.trans (List.prefix_append _ _), .inl (h0.same (by simp [hp]))⟩
    · intro s0 n ph m p u h0 hp _ _
      exact ⟨h0.op, h0.trace.trans (List.prefix_append _ _), .inl (h0.same (by simp [hp]))⟩
  · refine .inr (.inl ?_)
    rcases exec_frame_cases i hl h with rfl | ⟨f, s0, hs0, ⟨-, rfl, -⟩ | ⟨a, m, p, u, x, hd, -, rfl, -⟩⟩
    · rfl
    · rcases hs0 with ⟨ph, rfl, -⟩ | ⟨rfl, -⟩ <;> simp
    · rfl

/-- Settles O49: MODE changes by a reset, and else only by INIT's OK, which stands or has been given. -/
theorem modeChangesOnlyByInitAndReset : Obligations.ModeChangesOnlyByInitAndReset := by
  intro s t h hne
  have left : ∀ {m : Mode}, m ≠ s.mode → m = .ready → s.mode = .uninitialized := by
    rintro m hm rfl
    cases hs : s.mode <;> simp_all
  rcases step_exec_cases h with ⟨hr, i, later, rfl⟩ | ⟨-, i, bytes, pkt, he⟩ | ⟨-, bytes, pkt, rfl⟩
  · refine .inl ⟨?_, rfl, hr⟩
    cases hs : s.mode <;> simp_all
  · rcases exec_mode he with ⟨ho, -, hm | ⟨rfl, hm, hu, hp⟩⟩ | hm | ⟨rfl, ho, hm, hu, ht⟩
    · exact absurd hm hne
    · exact .inr ⟨left hne hm, hm, ho, hu, .inl hp⟩
    · exact absurd hm hne
    · exact .inr ⟨left hne hm, hm, ho, hu, .inr ht⟩
  · exact absurd rfl hne

/-! ## The flags -/

/-- What an operation `i` may have made of a flag: nothing, or what INIT does, or what its own operation writes
(R17). -/
def FlagWritten (i : Instr) (f : Flag) (old new : BitVec 3) : Prop :=
  new.getLsbD (flagBit f) = old.getLsbD (flagBit f) ∨
  (i = .init ∧ (f = .displayOn ∨ new.getLsbD (flagBit f) = false)) ∨
  i = flagOperation f (new.getLsbD (flagBit f))

/-- Writing a flag writes that flag to its operand and leaves the other two. -/
theorem crUpdate_flag (f g : Flag) (n : Bool) (ctrl : BitVec 3) :
    (crUpdate f n ctrl).getLsbD (flagBit g) = if g = f then n else ctrl.getLsbD (flagBit g) := by
  cases f <;> cases g <;> revert n ctrl <;> decide

theorem crSet_flag (f g : Flag) (ctrl : BitVec 3) :
    (crSet f ctrl).getLsbD (flagBit g) = if g = f then true else ctrl.getLsbD (flagBit g) := crUpdate_flag f g true ctrl

/-- A row writes a flag only as R17 allows. -/
theorem row_flagWritten {s : State} {i : Instr} {q : Request} {m : Mode} {c : BitVec 3} (h : Row s i q m c) (f : Flag) :
    FlagWritten i f s.ctrl c := by
  cases h with
  | initPowerOn => exact .inr (.inl ⟨rfl, .inr (by simp)⟩)
  | initDisplayOn =>
    by_cases hf : f = .displayOn
    · exact .inr (.inl ⟨rfl, .inl hf⟩)
    · exact .inl (by rw [crSet_flag, if_neg hf])
  | flag g n hi =>
    by_cases hf : f = g
    · exact .inr (.inr (by rw [crUpdate_flag, if_pos hf, hf, hi]))
    · exact .inl (by rw [crUpdate_flag, if_neg hf])
  | _ => exact .inl rfl

/-- Flags that a further row of the same operation writes are still written as R17 allows. -/
theorem FlagWritten.then {i : Instr} {f : Flag} {c0 c1 c2 : BitVec 3} (h1 : FlagWritten i f c0 c1)
    (h2 : FlagWritten i f c1 c2) : FlagWritten i f c0 c2 := by
  rcases h2 with h2 | h2 | h2
  · simpa only [FlagWritten, h2] using h1
  · exact .inr (.inl h2)
  · exact .inr (.inr h2)

/-- What an operation `i` taken up at `s` has made of the flags. -/
def FlagsWritten (i : Instr) (s u : State) : Prop := u.op = i ∧ ∀ f, FlagWritten i f s.ctrl u.ctrl

theorem run_flagsWritten {i : Instr} {t : Table} (ht : tableOf i = some t) {n : Nat} {s s0 s1 : State}
    (h0 : FlagsWritten i s s0) (h : run t n s0 = .next s1) : FlagsWritten i s s1 := by
  refine (run_keeps t (FlagsWritten i s) (FlagsWritten i s) ?_ ?_ ?_ ?_ (fun _ _ _ h _ _ => h) n s0 s1 h0 h).elim id id
  · rintro u u1 ⟨ho, hf⟩ - hi
    obtain ⟨q, m, c, hr, rfl⟩ := row_of_issue ht hi
    exact ⟨ho, fun f => (hf f).then (row_flagWritten hr f)⟩
  · rintro u ⟨ho, hf⟩
    exact ⟨by simpa using ho, by simpa using hf⟩
  · intro u f ph a m hu _ _
    obtain ⟨_, _, _, _, he, -⟩ := answered_cases ht a (answerWrite f a m u)
    rw [he]
    exact hu
  · intro u n ph m hu _ _
    obtain ⟨_, _, he, -⟩ := delayOver_cases ht (endDelay n m u)
    rw [he]
    exact hu

/-- An instruction leaves CTRL, or is an operation that has written its flags. -/
theorem exec_ctrl {i : Instr} {s t : State} (h : exec i s = .next t) : t.ctrl = s.ctrl ∨ FlagsWritten i s t := by
  by_cases hl : i.layer = .host
  · obtain ⟨tab, acc, ht, he, hacc⟩ := exec_operates i hl
    rw [he] at h
    rcases operate_cases i acc tab (microSteps i) s with ⟨-, ho, h1⟩ | ⟨-, -, h1⟩ | h1 <;> rw [h1] at h
    · exact .inr (run_flagsWritten ht ⟨ho, fun _ => .inl rfl⟩ h)
    · refine .inr (run_flagsWritten ht ?_ h)
      rcases hacc with ⟨m, -, rfl⟩ | ⟨-, rfl⟩
      · obtain ⟨p, ha, -⟩ := accept_cases m i s
        rw [ha]
        exact ⟨rfl, fun _ => .inl rfl⟩
      · exact ⟨rfl, fun _ => .inl rfl⟩
    · cases h; exact .inl rfl
  · refine .inl ?_
    rcases exec_frame_cases i hl h with rfl | ⟨f, s0, hs0, ⟨-, rfl, -⟩ | ⟨a, m, p, u, x, hd, -, rfl, -⟩⟩
    · rfl
    · rcases hs0 with ⟨ph, rfl, -⟩ | ⟨rfl, -⟩ <;> simp
    · rfl

/-- Settles O50: a flag that a step changes was cleared by reset, or written by the operation that ran. -/
theorem flagsChangeOnlyByTheirWriters : Obligations.FlagsChangeOnlyByTheirWriters := by
  intro s t h f hne
  rcases step_exec_cases h with ⟨hr, i, later, rfl⟩ | ⟨hr, i, bytes, pkt, he⟩ | ⟨-, bytes, pkt, rfl⟩
  · exact .inl ⟨hr, rfl⟩
  · rcases exec_ctrl he with hc | ⟨rfl, hf⟩
    · exact absurd (by rw [hc]) hne
    · rcases hf f with hf | ⟨ho, hf⟩ | hf
      · exact absurd hf hne
      · exact .inr (.inl ⟨hr, ho, hf⟩)
      · exact .inr (.inr ⟨hr, _, rfl, hf⟩)
  · exact absurd rfl hne

end Sys2Proof.Machine
end

section
/-! Frames that wait, the control byte, reset, and the ports (FramesNeverInterrupt, ControlByteOfCtrl,
ResetFromAnyState, ResetStateValues, ResetMeetsTheInvariant, PortsShowTheState). -/

namespace Sys2Proof.Machine

open Sys2Proof.Expect

/-- Settles O29: while an operation runs, `transact` does nothing to a frame that does not stand at the port. -/
theorem framesNeverInterrupt : Obligations.FramesNeverInterrupt := by
  intro i s f hf hb hp
  rw [exec_of_frameOf hf]
  rcases transact_cases f s with ⟨h, -⟩ | ⟨_, ⟨ph, -, hp'⟩ | ⟨-, -, hb'⟩, -⟩
  · rw [h]
  · exact absurd hp' (hp ph)
  · rw [hb] at hb'; cases hb'

/-- Settles O6. -/
theorem controlByteOfCtrl : Obligations.ControlByteOfCtrl :=
  ⟨fun ctrl => ⟨crValue_eq_controlByte ctrl, crValue_range ctrl⟩, fun p h1 h2 => ⟨_, crValue_low_bits p h1 h2⟩,
    fun _ => rfl⟩

/-- A request that the environment makes no move on waits. -/
theorem waits_of_silent {s : State} (h : silent s) (hp : s.pend ≠ none) : s.waits = true := by
  obtain ⟨hb, hc, hr⟩ := h
  obtain ⟨q, hq⟩ := Option.ne_none_iff_exists'.1 hp
  rcases q with ⟨f, _ | _⟩ | ⟨n, _ | _⟩ | r <;>
    simp [State.waits, hq, hb, hc, hr, afterReady, firstDone]

/-- A request that waits stalls the block. -/
theorem stalled_of_waits {s : State} (h : s.waits = true) : s.stalled = true := by
  cases hp : s.pend with
  | none => simp [State.waits, hp] at h
  | some q => cases q <;> simp [State.stalled, hp, h]

/-- Settles O42: with nothing left to happen the block is stalled, whether it is idle or a request stands; and a stalled
block takes the reset that comes. -/
theorem resetFromAnyState : Obligations.ResetFromAnyState := by
  refine ⟨fun s hs hsil hby hlands => ?_, fun s i later hst hr => ?_⟩
  · by_cases hp : s.pend = none
    · have hb : s.busy = false := hlands.resolve_right fun h => h hp
      simp [State.stalled, hp, hb, hby]
    · exact stalled_of_waits (waits_of_silent hsil hp)
  · refine ⟨_, step_reset hst hr, ?_⟩
    simp [ctrlValueOut, crValue]

/-- Settles O43: the constants of the reset state are the parameters' values. -/
theorem resetStateValues : Obligations.ResetStateValues :=
  ⟨⟨rfl, rfl, rfl, rfl, rfl⟩, by decide, rfl, rfl⟩

/-- Settles O44: the reset state is idle and within its widths. -/
theorem resetMeetsTheInvariant : Obligations.ResetMeetsTheInvariant :=
  inv_iff.2 (.inr ⟨rfl, rfl, rfl, rfl, rfl⟩)

/-! ## The ports -/

/-- The Bus port shows the write that is offered. -/
theorem offeredWrite_eq_some {s : State} {f : Frame} : offeredWrite s = some f ↔ s.pend = some (.write f .offered) := by
  rcases hp : s.pend with _ | ⟨g, _ | _⟩ | ⟨n, _ | _⟩ | r <;> simp [offeredWrite, hp]

theorem dlyMs_eq_some {s : State} {n : Millis} : dlyMs s = some n ↔ s.pend = some (.delay n .offered) := by
  rcases hp : s.pend with _ | ⟨g, _ | _⟩ | ⟨n, _ | _⟩ | r <;> simp [dlyMs, hp]

theorem standingResponse_eq_some {s : State} {r : Response} :
    standingResponse s = some r ↔ s.pend = some (.response r) := by
  rcases hp : s.pend with _ | ⟨g, ph⟩ | ⟨n, ph⟩ | r <;> simp [standingResponse, hp]

theorem busValid_eq_false {s : State} (h : ∀ f, s.pend ≠ some (.write f .offered)) : busValid s = false := by
  cases ho : offeredWrite s with
  | none => simp [busValid, ho]
  | some f => exact absurd (offeredWrite_eq_some.1 ho) (h f)

theorem dlyValid_eq_false {s : State} (h : ∀ n, s.pend ≠ some (.delay n .offered)) : dlyValid s = false := by
  cases ho : dlyMs s with
  | none => simp [dlyValid, ho]
  | some n => exact absurd (dlyMs_eq_some.1 ho) (h n)

theorem rspValid_eq_false {s : State} (h : ∀ r, s.pend ≠ some (.response r)) : rspValid s = false := by
  cases ho : standingResponse s with
  | none => simp [rspValid, ho]
  | some r => exact absurd (standingResponse_eq_some.1 ho) (h r)

theorem statusError_eq_some {r : Response} {e : BusErr} : statusError r = some e ↔ r = .busError e := by
  cases r <;> simp [statusError]

/-- The error value is on the response port with BUS_ERROR alone. -/
theorem rspErr_eq_none {s : State} (h : ∀ e, s.pend ≠ some (.response (.busError e))) : rspErr s = none := by
  simp only [rspErr, Option.map_eq_none_iff, Option.bind_eq_none_iff, standingResponse_eq_some]
  intro r hr
  cases he : statusError r with
  | none => rfl
  | some e => exact absurd (statusError_eq_some.1 he ▸ hr) (h e)

theorem cmdReady_iff {s : State} : cmdReady s = true ↔ s.idle := by simp [cmdReady, State.idle]

theorem modeOut_iff {s : State} : modeOut s = 1#1 ↔ s.mode = .ready := by cases hm : s.mode <;> simp [modeOut, hm]

theorem busyOut_iff {s : State} : busyOut s = 1#1 ↔ s.busy = true := by cases hb : s.busy <;> simp [busyOut, hb]

/-- Settles O60: what stands shows at its own port, so it shows at no other. -/
theorem portsShowTheState : Obligations.PortsShowTheState := by
  intro s
  refine ⟨fun f hp => ?_, fun n hp => ?_, fun r hp => ?_, fun hp => ?_, fun e hp => ?_, rspErr_eq_none, cmdReady_iff,
    modeOut_iff, busyOut_iff, crValue_eq_controlByte s.ctrl⟩
  · have ho := offeredWrite_eq_some.2 hp
    exact ⟨by simp [busValid, ho], by simp [busAddr, ho], by simp [busB0, ho], by simp [busB1, ho],
      dlyValid_eq_false (by simp [hp]), rspValid_eq_false (by simp [hp])⟩
  · have ho := dlyMs_eq_some.2 hp
    exact ⟨by simp [dlyValid, ho], ho, busValid_eq_false (by simp [hp]), rspValid_eq_false (by simp [hp])⟩
  · have ho := standingResponse_eq_some.2 hp
    exact ⟨by simp [rspValid, ho], by simp [rspStatus, ho], busValid_eq_false (by simp [hp]),
      dlyValid_eq_false (by simp [hp])⟩
  · rcases hp with hp | ⟨f, hp⟩ | ⟨n, hp⟩ <;>
      exact ⟨busValid_eq_false (by simp [hp]), dlyValid_eq_false (by simp [hp]), rspValid_eq_false (by simp [hp])⟩
  · simp [rspErr, standingResponse_eq_some.2 hp, statusError]

end Sys2Proof.Machine
end

section
/-! NothingIsRememberedOfAnOperation: acceptance sets `op`, `upc` and `sidx`, and `held` is written before it is read, so
a run that starts with another `held` differs from the run in `held` alone. -/

namespace Sys2Proof.Machine

open Sys2Proof.Expect

/-- The row whose answer an operation holds: INIT's and CLEAR's clear write (R86, R100). -/
def heldRow : Instr → Option Nat
  | .init => some 7
  | .clear => some 0
  | _ => none

/-- The operation has not come past the row whose answer it holds: it reads `held` only after that row. -/
def HeldUnread (i : Instr) (s : State) : Prop :=
  ∀ k, heldRow i = some k → s.upc < k ∨ s.upc = k ∧ ∀ n ph, s.pend ≠ some (.delay n ph)

theorem HeldUnread.of_le {i : Instr} {s : State} (hu : ∀ k, heldRow i = some k → s.upc ≤ k)
    (hp : ∀ n ph, s.pend ≠ some (.delay n ph)) : HeldUnread i s :=
  fun k hk => (hu k hk).lt_or_eq.imp_right fun h => ⟨h, hp⟩

theorem HeldUnread.issue {i : Instr} {s : State} {q : Request} {m : Mode} {c : BitVec 3} (h : HeldUnread i s)
    (hr : Row s i q m c) : HeldUnread i { s with pend := some q, mode := m, ctrl := c } := by
  intro k hk
  refine (h k hk).imp_right fun ⟨hu, _⟩ => ⟨hu, ?_⟩
  cases hr with
  | flag f n hi => subst hi; cases f <;> cases hk
  | oneWriteOk hi => cases i <;> cases hi <;> cases hk
  | _ => cases hk <;> simp_all

theorem HeldUnread.taken {i : Instr} {s : State} (h : HeldUnread i s) : HeldUnread i (takeRequest s) := by
  intro k hk
  rw [takeRequest_upc]
  refine (h k hk).imp_right fun ⟨hu, hd⟩ => ⟨hu, ?_⟩
  rcases takeRequest_cases s with he | ⟨f, l, hp, -, he⟩ | ⟨n, l, hp, -, he⟩ <;> rw [he]
  · exact hd
  · simp
  · exact absurd hp (hd n _)

/-- A row that comes before `held` is read does not look at it. -/
theorem row_hold {i : Instr} {s : State} {q : Request} {m : Mode} {c : BitVec 3} (h : HeldUnread i s)
    (hr : Row s i q m c) (a : Answer) : Row (s.hold a) i q m c := by
  cases hr with
  | clearStatus hu => exact absurd (h 0 rfl) (by omega)
  | strOk str hc hu => exact .strOk str hc hu
  | rgbOk r g b hu => exact .rgbOk r g b hu
  | _ => constructor <;> assumption

theorem takeRequest_hold (s : State) (a : Answer) : takeRequest (s.hold a) = (takeRequest s).hold a := by
  unfold takeRequest
  simp only [hold_pend, hold_busMoves, hold_clockMoves]
  split <;> (try split) <;> rfl

/-- `settle` hands `held` on. -/
theorem settle_hold (t : Table) (s : State) (a : Answer) :
    (∃ s1, settle t s = .waits s1 ∧ settle t (s.hold a) = .waits (s1.hold a)) ∨
    (∃ f x m, settle t s = .goesOn (t.answered x (answerWrite f x m (takeRequest s))) ∧
      settle t (s.hold a) = .goesOn (t.answered x ((answerWrite f x m (takeRequest s)).hold a))) ∨
    (∃ n m, (takeRequest s).pend = some (.delay n .taken) ∧
      settle t s = .goesOn (t.delayOver (endDelay n m (takeRequest s))) ∧
      settle t (s.hold a) = .goesOn (t.delayOver ((endDelay n m (takeRequest s)).hold a))) ∨
    (∃ s1, settle t s = .ended s1 ∧ settle t (s.hold a) = .ended (s1.hold a)) := by
  unfold settle
  simp only [takeRequest_hold, hold_pend, hold_busMoves, hold_clockMoves, hold_rspTakes]
  generalize takeRequest s = s1
  split
  · split
    · exact .inr (.inl ⟨_, _, _, rfl, rfl⟩)
    · exact .inl ⟨_, rfl, rfl⟩
  · split
    · exact .inr (.inr (.inl ⟨_, _, ‹_›, rfl, rfl⟩))
    · exact .inl ⟨_, rfl, rfl⟩
  · split
    · exact .inr (.inr (.inr ⟨_, rfl, rfl⟩))
    · exact .inl ⟨_, rfl, rfl⟩
  all_goals exact .inl ⟨_, rfl, rfl⟩

/-- What follows an answer writes `held`, or hands it on unread. -/
theorem answered_hold {i : Instr} {t : Table} (ht : tableOf i = some t) {s : State} (h : HeldUnread i s)
    (hp : s.pend = none) (x a : Answer) :
    t.answered x (s.hold a) = t.answered x s ∨
    (t.answered x (s.hold a) = (t.answered x s).hold a ∧ HeldUnread i (t.answered x s)) := by
  cases i <;> cases ht
  case init =>
    by_cases hu : s.upc = 7
    · exact .inl (by rw [initTable_answered_held hu, initTable_answered_held (s := s.hold a) hu]; rfl)
    · have hlt : s.upc < 7 := (h 7 rfl).resolve_right fun h7 => hu h7.1
      rw [initTable_answered_other hu, initTable_answered_other (s := s.hold a) hu]
      cases x with
      | ok => exact .inr ⟨rfl, .of_le (by rintro _ ⟨⟩; exact hlt) (by simp [hp])⟩
      | err e => exact .inr ⟨rfl, .of_le (by rintro _ ⟨⟩; exact hlt.le) (by simp)⟩
  case clear => exact .inl rfl
  all_goals exact .inr ⟨by cases x <;> rfl, by rintro _ ⟨⟩⟩

/-- What follows a delay that comes before `held` is read hands it on unread. -/
theorem delayOver_hold {i : Instr} {t : Table} (ht : tableOf i = some t) {s : State} (hp : s.pend = none)
    (hu : ∀ k, heldRow i = some k → s.upc < k) (a : Answer) :
    t.delayOver (s.hold a) = (t.delayOver s).hold a ∧ HeldUnread i (t.delayOver s) := by
  cases i <;> cases ht
  case init =>
    have hlt : s.upc < 7 := hu 7 rfl
    have h8 : s.upc ≠ 8 := by omega
    rw [initTable_delayOver_other h8, initTable_delayOver_other (s := s.hold a) h8]
    exact ⟨rfl, .of_le (by rintro _ ⟨⟩; exact hlt) (by simp [hp])⟩
  case clear => exact absurd (hu 0 rfl) (by omega)
  all_goals exact ⟨rfl, by rintro _ ⟨⟩⟩

/-- A run that starts before `held` is read does the same whatever it holds. -/
theorem run_hold {i : Instr} {t : Table} (ht : tableOf i = some t) : ∀ (n : Nat) {s s' : State} (a : Answer),
    HeldUnread i s → run t n s = .next s' → ∃ a', run t n (s.hold a) = .next (s'.hold a') := by
  intro n
  induction n with
  | zero => intro s s' a _ h; cases h; exact ⟨a, rfl⟩
  | succ n ih =>
    intro s s' a hh h
    obtain ⟨s1, hi, hia, h1⟩ : ∃ s1, issueIfFree t s = some s1 ∧ issueIfFree t (s.hold a) = some (s1.hold a) ∧
        HeldUnread i s1 := by
      cases hp : s.pend with
      | some q => exact ⟨s, issueIfFree_standing t hp, issueIfFree_standing t (s := s.hold a) hp, hh⟩
      | none =>
        cases hi : t.issue s with
        | none => simp [run, issueIfFree_free t hp, hi] at h
        | some s1 =>
          obtain ⟨q, m, c, hr, rfl⟩ := row_of_issue ht hi
          refine ⟨_, (issueIfFree_free t hp).trans hi, ?_, hh.issue hr⟩
          rw [issueIfFree_free t (s := s.hold a) hp, issue_of_row ht (row_hold hh hr a)]
          rfl
    rcases settle_hold t s1 a with ⟨s2, h2, h2a⟩ | ⟨f, x, m, h2, h2a⟩ | ⟨d, m, hp, h2, h2a⟩ | ⟨s2, h2, h2a⟩
    · rw [run_waits t n hi h2] at h
      cases h
      exact ⟨a, run_waits t n hia h2a⟩
    · rw [run_goesOn t n hi h2] at h
      rw [run_goesOn t n hia h2a]
      have hw : HeldUnread i (answerWrite f x m (takeRequest s1)) := fun k hk =>
        (h1.taken k hk).imp_right fun hu => ⟨hu.1, by simp⟩
      rcases answered_hold ht hw rfl x a with he | ⟨he, hn⟩ <;> rw [he]
      · exact ⟨s'.held, h⟩
      · exact ih a hn h
    · rw [run_goesOn t n hi h2] at h
      rw [run_goesOn t n hia h2a]
      have hu : ∀ k, heldRow i = some k → (takeRequest s1).upc < k := fun k hk =>
        (h1.taken k hk).resolve_right fun hu => hu.2 d _ hp
      obtain ⟨he, hn⟩ := delayOver_hold ht (s := endDelay d m (takeRequest s1)) rfl hu a
      rw [he]
      exact ih a hn h
    · rw [run_ended t n hi h2] at h
      cases h
      exact ⟨a, run_ended t n hia h2a⟩

/-- Acceptance sets `op`, `upc` and `sidx`, and hands `held` on. -/
theorem accept_forgets (m : Mode) (i : Instr) (s : State) (op : Instr) (upc sidx : Nat) (a : Answer) :
    accept m i { s with op := op, upc := upc, sidx := sidx, held := a } = (accept m i s).hold a := by
  by_cases h : s.mode = m
  · rw [accept_admitted h, accept_admitted (s := { s with op := op, upc := upc, sidx := sidx, held := a }) h]
    rfl
  · rw [accept_refused h, accept_refused (s := { s with op := op, upc := upc, sidx := sidx, held := a }) h]
    rfl

theorem heldUnread_accept (m : Mode) (i : Instr) {s : State} (hp : s.pend = none) : HeldUnread i (accept m i s) := by
  obtain ⟨p, he, h⟩ := accept_cases m i s
  rw [he]
  refine .of_le (fun k _ => k.zero_le) ?_
  rcases h with ⟨-, rfl⟩ | ⟨-, rfl⟩ <;> simp [hp]

/-- The operations are the instructions that ask for a mode (R140). -/
theorem isSome_requiredMode (i : Instr) : (requiredMode i).isSome = isOperation i := by cases i <;> rfl

theorem host_of_isOperation {i : Instr} (h : isOperation i = true) : i.layer = .host := by
  cases i <;> simp_all [isOperation, Instr.layer]

/-- Settles O59: accepted with another `op`, `upc`, `sidx` and `held` left behind, the operation starts from the same
state but for `held`, which it writes before it reads it. -/
theorem nothingIsRememberedOfAnOperation : Obligations.NothingIsRememberedOfAnOperation := by
  rintro i s op upc sidx held ⟨hb, hp⟩ t h hop
  obtain ⟨tab, acc, ht, he, ⟨m, -, rfl⟩ | ⟨hn, -⟩⟩ := exec_operates i (host_of_isOperation hop)
  · have hrun : run tab (microSteps i) (accept m i s) = .next t := by rwa [he, operate_idle hb hp] at h
    obtain ⟨a, ha⟩ := run_hold ht _ held (heldUnread_accept m i hp) hrun
    have h' : exec i { s with op := op, upc := upc, sidx := sidx, held := held } = .next (t.hold a) :=
      calc _ = run tab (microSteps i) (accept m i { s with op := op, upc := upc, sidx := sidx, held := held }) :=
            (he _).trans (operate_idle hb hp)
        _ = .next (t.hold a) := by rw [accept_forgets, ha]
    obtain ⟨h1, h2, h3, h4, h5, h6⟩ := exec_untouched h'
    exact ⟨_, h', rfl, rfl, rfl, rfl, rfl, rfl, rfl, rfl, h1, h2, h3, h4, h5, h6⟩
  · simp [← isSome_requiredMode, hn] at hop

end Sys2Proof.Machine
end

section
/-! What the block does by itself, an equation per case; and the frames (StepRunsTheStandingFrame,
StepResumesTheOperation, FramesAreOneWriteEach). -/

namespace Sys2Proof.Machine

open Sys2Proof.Expect

theorem goOn_frame {s : State} {f : Frame} {ph : Phase} {i : Instr} (hp : s.pend = some (.write f ph))
    (hi : frameKind f s = some i) : goOn s = exec i s := by
  simp [goOn, hp, hi]

theorem goOn_stray {s : State} {f : Frame} {ph : Phase} (hp : s.pend = some (.write f ph))
    (hi : frameKind f s = none) : goOn s = .fault .strayFrame := by
  simp [goOn, hp, hi]

theorem goOn_resumes {s : State} (h : s.busy = true ∨ s.pend ≠ none) (hw : ∀ f ph, s.pend ≠ some (.write f ph)) :
    goOn s = exec s.op s := by
  rcases hp : s.pend with _ | ⟨f, ph⟩ | ⟨n, ph⟩ | r
  · have hb : s.busy = true := h.resolve_right fun h => h hp
    simp [goOn, hp, hb]
  · exact absurd hp (hw f ph)
  · simp [goOn, hp]
  · simp [goOn, hp]

theorem goOn_packet {s : State} {b : Byte} {later rest : List Byte} {i : Instr} (hs : s.idle) (hb : s.bytes = b :: later)
    (hd : decode (s.pkt ++ [b]) = .ok (i, rest)) : goOn s = exec i { s with bytes := later, pkt := [] } := by
  obtain ⟨hbusy, hp⟩ := hs
  simp [goOn, hp, hbusy, hb, takeByte, hd]

theorem goOn_byte {s : State} {b : Byte} {later : List Byte} {e : DecodeError} (hs : s.idle) (hb : s.bytes = b :: later)
    (hd : decode (s.pkt ++ [b]) = .error e) : goOn s = .next { s with bytes := later, pkt := s.pkt ++ [b] } := by
  obtain ⟨hbusy, hp⟩ := hs
  simp [goOn, hp, hbusy, hb, takeByte, hd]

theorem goOn_noByte {s : State} (hs : s.idle) (hb : s.bytes = []) : goOn s = .next s := by
  obtain ⟨hbusy, hp⟩ := hs
  simp [goOn, hp, hbusy, hb]

/-! ## The frames -/

/-- A control byte is made of its low three bits (R55). -/
theorem controlByte_low_bits : ∀ b : Byte, b &&& 0xF8#8 = 0x08#8 →
    controlByte (b.getLsbD 2) (b.getLsbD 1) (b.getLsbD 0) = b := by decide +kernel

/-- A set-DDRAM-address byte is made of its low seven bits (R56). -/
theorem append_low_bits : ∀ b : Byte, b &&& 0x80#8 = 0x80#8 → BitVec.ofBool true ++ b.extractLsb' 0 7 = b := by
  decide +kernel

theorem frameOf_decodeLcdFrame {s : State} {b0 b1 : Byte} {i : Instr}
    (h : decodeLcdFrame s.showFunction b0 b1 = some i) : frameOf s i = some ⟨s.addrLcd, b0, b1⟩ := by
  simp only [decodeLcdFrame] at h
  split at h
  · cases h
    simp [frameOf, lcdChr, *]
  · split at h
    · split_ifs at h with h1 h2 h3 h4 h5 <;> cases h
      · simp [frameOf, lcdCmd, *]
      · simp [frameOf, lcdCmd, *]
      · simp only [frameOf, lcdCmd, controlByte_low_bits b1 h3, *]
      · simp [frameOf, lcdCmd, *]
      · simp only [frameOf, lcdCmd, append_low_bits b1 h5, *]
    · cases h

theorem frameOf_decodeRgbFrame {s : State} {b0 b1 : Byte} {i : Instr} (h : decodeRgbFrame b0 b1 = some i) :
    frameOf s i = some ⟨s.addrRgb, b0, b1⟩ := by
  simp only [decodeRgbFrame] at h
  split_ifs at h <;> cases h <;> simp [frameOf, rgbReg, *]

/-- What a frame decodes to is the instruction of that frame. -/
theorem frameOf_frameKind {s : State} {f : Frame} {i : Instr} (h : frameKind f s = some i) : frameOf s i = some f := by
  obtain ⟨dev, b0, b1⟩ := f
  simp only [frameKind, Option.or_eq_some_iff] at h
  rcases h with h | ⟨-, h⟩ <;> split at h
  · rename_i hd
    subst hd
    exact frameOf_decodeLcdFrame h
  · cases h
  · rename_i hd
    subst hd
    exact frameOf_decodeRgbFrame h
  · cases h

/-- A standing write that is one of the twelve kinds is answered as its frame. -/
theorem goOn_write {s : State} {f : Frame} {ph : Phase} {i : Instr} (hp : s.pend = some (.write f ph))
    (hi : frameKind f s = some i) : goOn s = .next (answerFrame f s) := by
  rw [goOn_frame hp hi, exec_of_frameOf (frameOf_frameKind hi), transact_standing hp]

/-- Settles O36. -/
theorem stepRunsTheStandingFrame : Obligations.StepRunsTheStandingFrame :=
  fun _ _ _ _ hr hp hi => ⟨(step_goOn hr).trans (goOn_frame hp hi), frameOf_frameKind hi⟩

/-- Settles O37: no instruction touches the host's stream, and a running block runs one. -/
theorem stepResumesTheOperation : Obligations.StepResumesTheOperation := by
  refine fun s hr hb => ⟨fun hw => (step_goOn hr).trans (goOn_resumes (.inl hb) hw), fun t h => ?_⟩
  rw [step_goOn hr] at h
  rcases goOn_cases h with ⟨_, _, i, -, -, he⟩ | ⟨-, -, he⟩ | ⟨hb', -⟩ | ⟨hb', -⟩ | ⟨hb', -⟩
  · exact ⟨(exec_untouched he).bytes, (exec_untouched he).pkt⟩
  · exact ⟨(exec_untouched he).bytes, (exec_untouched he).pkt⟩
  all_goals cases hb.symm.trans hb'

/-- What taking a standing write leaves of it. -/
theorem takeRequest_write {s : State} {f : Frame} {ph : Phase} (hp : s.pend = some (.write f ph)) :
    ∃ ph' m, takeRequest s = { s with pend := some (.write f ph'), busMoves := m } := by
  rcases takeRequest_cases s with he | ⟨g, l, hp', -, he⟩ | ⟨n, l, hp', -, -⟩
  · exact ⟨ph, s.busMoves, by rw [he, ← hp]⟩
  · cases hp.symm.trans hp'
    exact ⟨_, _, he⟩
  · cases hp.symm.trans hp'

/-- Settles O25: a frame put on a free port has the answers ahead that the idle block had. -/
theorem framesAreOneWriteEach : Obligations.FramesAreOneWriteEach := by
  intro i s f hf hb hp
  rw [exec_of_frameOf hf]
  -- the frame stands at the port, in `s` or put there
  obtain ⟨ph, ht, ha⟩ : ∃ ph, transact f s = answerFrame f { s with pend := some (.write f ph) } ∧
      s.busAnswers = State.busAnswers { s with pend := some (.write f ph) } := by
    rcases hp with hp | ⟨ph, hp⟩
    · exact ⟨.offered, transact_idle hp hb, busAnswers_free (by simp [State.writeTaken, hp])⟩
    · exact ⟨ph, by rw [transact_standing hp, ← hp], by rw [← hp]⟩
  rw [ht, ha]
  rcases answerFrame_cases (f := f) (ph := ph) (s := { s with pend := some (.write f ph) }) rfl with
    ⟨h0, he, hw⟩ | ⟨a, m, h1, he⟩
  · refine ⟨fun a later h => by simp [h0] at h, fun _ => ?_⟩
    obtain ⟨ph', m, hm⟩ := takeRequest_write (f := f) (ph := ph) (s := { s with pend := some (.write f ph) }) rfl
    rw [he, hm]
    rw [hm] at hw
    exact ⟨ph', m, rfl, hw⟩
  · refine ⟨fun a' later h => ?_, fun h => by simp [h1] at h⟩
    cases h1.symm.trans h
    exact ⟨m, rfl, by rw [he]; exact congrArg _ (react_idle a hb)⟩

end Sys2Proof.Machine
end

section
/-! EventsAccountForInputs: the events of every micro-step, of a run, of an instruction and of a step, with the inputs
they take. -/

namespace Sys2Proof.Machine

open Sys2Proof.Expect

@[simp] theorem answersOf_append (es fs : List Event) : answersOf (es ++ fs) = answersOf es ++ answersOf fs := by
  induction es with
  | nil => rfl
  | cons e es ih => cases e <;> simp [answersOf, ih]

@[simp] theorem delaysOf_append (es fs : List Event) : delaysOf (es ++ fs) = delaysOf es + delaysOf fs := by
  induction es with
  | nil => simp [delaysOf]
  | cons e es ih => cases e <;> simp [delaysOf, ih, Nat.add_right_comm]

@[simp] theorem responsesOf_append (es fs : List Event) :
    responsesOf (es ++ fs) = responsesOf es + responsesOf fs := by
  induction es with
  | nil => simp [responsesOf]
  | cons e es ih => cases e <;> simp [responsesOf, ih, Nat.add_right_comm]

@[simp] theorem opsOf_append (es fs : List Event) : opsOf (es ++ fs) = opsOf es ++ opsOf fs := by
  induction es with
  | nil => rfl
  | cons e es ih => cases e <;> simp [opsOf, ih]

/-- From `s` the block has come to `u` by the events `evs`, which took their inputs in order (R32, R34, R44, R47). -/
structure Spent (s u : State) (evs : List Event) : Prop where
  trace : u.trace = s.trace ++ evs
  answers : s.busAnswers = answersOf evs ++ u.busAnswers
  ends : s.delayEnds = delaysOf evs + u.delayEnds
  takes : s.rspTakes = responsesOf evs + u.rspTakes

theorem Spent.refl (s : State) : Spent s s [] := by
  constructor <;> simp [answersOf, delaysOf, responsesOf]

theorem Spent.trans {s u v : State} {es fs : List Event} (h : Spent s u es) (h' : Spent u v fs) :
    Spent s v (es ++ fs) where
  trace := by rw [h'.trace, h.trace, List.append_assoc]
  answers := by rw [h.answers, h'.answers, answersOf_append, List.append_assoc]
  ends := by rw [h.ends, h'.ends, delaysOf_append, Nat.add_assoc]
  takes := by rw [h.takes, h'.takes, responsesOf_append, Nat.add_assoc]

/-- A state with no request taken, come to from one with none taken, has the same answers ahead where it has the same
moves. -/
theorem Spent.of_free {s u : State} {evs : List Event} (htr : u.trace = s.trace ++ evs) (hr : u.rspTakes = s.rspTakes)
    (hb : u.busMoves = s.busMoves) (hc : u.clockMoves = s.clockMoves) (hs : s.writeTaken = false ∧ s.delayTaken = false)
    (hu : u.writeTaken = false ∧ u.delayTaken = false) (ha : answersOf evs = []) (hd : delaysOf evs = 0)
    (hn : responsesOf evs = 0) : Spent s u evs where
  trace := htr
  answers := by rw [busAnswers_free hs.1, busAnswers_free hu.1, hb, ha, List.nil_append]
  ends := by rw [delayEnds_free hs.2, delayEnds_free hu.2, hc, hd, Nat.zero_add]
  takes := by rw [hr, hn, Nat.zero_add]

theorem not_taken_of_none {s : State} (h : s.pend = none) : s.writeTaken = false ∧ s.delayTaken = false :=
  not_taken_of_fresh (by simp [h])

theorem not_taken_of_free_or_response {s : State} (h : s.pend = none ∨ ∃ r, s.pend = some (.response r)) :
    s.writeTaken = false ∧ s.delayTaken = false :=
  not_taken_of_fresh (by rcases h with h | ⟨r, h⟩ <;> simp [h])

/-- A request that is none or the abort's response is none or a response. -/
theorem none_or_response {p : Option Request} {b : BusErr → Prop}
    (h : p = none ∨ ∃ e, b e ∧ p = some (.response (.busError e))) : p = none ∨ ∃ r, p = some (.response r) :=
  h.imp_right fun ⟨_, _, h⟩ => ⟨_, h⟩

/-- Putting a request takes no input. -/
theorem spent_issue {s : State} {q : Request} (hp : s.pend = none) (hq : q.fresh) (m : Mode) (c : BitVec 3) :
    Spent s { s with pend := some q, mode := m, ctrl := c } [] :=
  .of_free (by simp) rfl rfl rfl (not_taken_of_none hp)
    (not_taken_of_fresh (by rintro q' ⟨⟩; exact hq)) rfl rfl rfl

theorem spent_takeRequest (s : State) : Spent s (takeRequest s) [] := by
  constructor <;> simp [answersOf, delaysOf, responsesOf]

/-- The events of an operation between its acceptance and its response: writes and delays. -/
def Quiet (evs : List Event) : Prop := opsOf evs = [] ∧ responsesOf evs = 0

theorem quiet_nil : Quiet [] := ⟨rfl, rfl⟩

theorem quiet_write (f : Frame) (a : Answer) : Quiet [.write f a] := ⟨rfl, rfl⟩

theorem quiet_delay (n : Millis) : Quiet [.delay n] := ⟨rfl, rfl⟩

theorem Quiet.append {es fs : List Event} (h : Quiet es) (h' : Quiet fs) : Quiet (es ++ fs) := by
  simp [Quiet, h.1, h.2, h'.1, h'.2]

/-- A write takes the Bus's next answer and nothing else, whatever the operation makes of it. -/
theorem spent_write {s : State} {f : Frame} {ph : Phase} {a : Answer} {m : List BusMove} {p : Option Request}
    (hp : s.pend = some (.write f ph)) (ha : s.busAnswers = a :: answersAhead false m)
    (hp' : p = none ∨ ∃ r, p = some (.response r)) (u x : Nat) (h : Answer) :
    Spent s { answerWrite f a m s with pend := p, upc := u, sidx := x, held := h } [.write f a] := by
  have hf := not_taken_of_free_or_response (s := { answerWrite f a m s with pend := p }) hp'
  exact { trace := rfl
          answers := ha.trans (congrArg (a :: ·) (busAnswers_free hf.1).symm)
          ends := (delayEnds_free (by simp [State.delayTaken, hp])).trans
            ((Nat.zero_add _).trans (delayEnds_free hf.2)).symm
          takes := (Nat.zero_add _).symm }

/-- A delay takes the Clock's next end and nothing else. -/
theorem spent_delay {s : State} {n : Millis} {ph : Phase} {m : List ClockMove} {p : Option Request}
    (hp : s.pend = some (.delay n ph)) (hd : s.delayEnds = (answersAhead false m).length + 1)
    (hp' : p = none ∨ ∃ r, p = some (.response r)) (u : Nat) :
    Spent s { endDelay n m s with pend := p, upc := u } [.delay n] := by
  have hf := not_taken_of_free_or_response (s := { endDelay n m s with pend := p }) hp'
  exact { trace := rfl
          answers := (busAnswers_free (by simp [State.writeTaken, hp])).trans (busAnswers_free hf.1).symm
          ends := hd.trans ((Nat.add_comm _ _).trans (congrArg (1 + ·) (delayEnds_free hf.2).symm))
          takes := (Nat.zero_add _).symm }

/-- The response takes one take. -/
theorem spent_response {s : State} {r : Response} {later : Nat} (hp : s.pend = some (.response r))
    (hr : s.rspTakes = later + 1) : Spent s (giveResponse r { s with rspTakes := later }) [.rsp r] := by
  have hs := not_taken_of_free_or_response (.inr ⟨r, hp⟩)
  exact { trace := rfl
          answers := busAnswers_free hs.1
          ends := (delayEnds_free hs.2).trans (Nat.zero_add _).symm
          takes := hr.trans (Nat.add_comm _ _) }

/-- The same as `spent_write` of what a table makes of the answer. -/
theorem spent_answered {i : Instr} {t : Table} (ht : tableOf i = some t) {s : State} {f : Frame} {ph : Phase}
    {a : Answer} {m : List BusMove} (hp : s.pend = some (.write f ph)) (ha : s.busAnswers = a :: answersAhead false m) :
    Spent s (t.answered a (answerWrite f a m s)) [.write f a] := by
  obtain ⟨p, u, x, h, he, hp'⟩ := answered_cases ht a (answerWrite f a m s)
  rw [he]
  exact spent_write hp ha (none_or_response hp') u x h

theorem spent_delayOver {i : Instr} {t : Table} (ht : tableOf i = some t) {s : State} {n : Millis} {ph : Phase}
    {m : List ClockMove} (hp : s.pend = some (.delay n ph)) (hd : s.delayEnds = (answersAhead false m).length + 1) :
    Spent s (t.delayOver (endDelay n m s)) [.delay n] := by
  obtain ⟨p, u, he, hp'⟩ := delayOver_cases ht (endDelay n m s)
  rw [he]
  exact spent_delay hp hd (none_or_response hp') u

/-- A run makes writes and delays, and then one response if it comes to it. -/
theorem run_spent {i : Instr} {t : Table} (ht : tableOf i = some t) {n : Nat} {s u : State}
    (h : run t n s = .next u) :
    (∃ evs, Spent s u evs ∧ Quiet evs) ∨
    (∃ evs r, Spent s u (evs ++ [.rsp r]) ∧ Quiet evs ∧ u.idle) := by
  refine run_keeps t (fun u => ∃ evs, Spent s u evs ∧ Quiet evs)
    (fun u => ∃ evs r, Spent s u (evs ++ [.rsp r]) ∧ Quiet evs ∧ u.idle) ?_ ?_ ?_ ?_ ?_ n s u
    ⟨[], .refl s, quiet_nil⟩ h
  · rintro v v1 ⟨evs, hs, hq⟩ hp hi
    obtain ⟨q, m, c, rfl, hf, -⟩ := issue_cases ht hi
    exact ⟨evs, by simpa using hs.trans (spent_issue hp hf m c), hq⟩
  · rintro v ⟨evs, hs, hq⟩
    exact ⟨evs, by simpa using hs.trans (spent_takeRequest v), hq⟩
  · rintro v f ph a m ⟨evs, hs, hq⟩ hp ha
    exact ⟨_, hs.trans (spent_answered ht hp ha), hq.append (quiet_write f a)⟩
  · rintro v n ph m ⟨evs, hs, hq⟩ hp hd
    exact ⟨_, hs.trans (spent_delayOver ht hp hd), hq.append (quiet_delay n)⟩
  · rintro v r later ⟨evs, hs, hq⟩ hp hr
    exact ⟨evs, r, hs.trans (spent_response hp hr), hq, rfl, rfl⟩

/-- Acceptance at a free port leaves it free, or puts a response there. -/
theorem accept_pend (m : Mode) (i : Instr) {s : State} (hp : s.pend = none) :
    (accept m i s).pend = none ∨ ∃ r, (accept m i s).pend = some (.response r) := by
  obtain ⟨p, he, ⟨-, rfl⟩ | ⟨-, rfl⟩⟩ := accept_cases m i s <;> rw [he]
  · exact .inl hp
  · exact .inr ⟨_, rfl⟩

/-- Acceptance is the event `Op`. -/
theorem spent_accept (m : Mode) (i : Instr) {s : State} (hp : s.pend = none) : Spent s (accept m i s) [.op i] := by
  have hfree := not_taken_of_free_or_response (accept_pend m i hp)
  obtain ⟨p, he, -⟩ := accept_cases m i s
  rw [he] at hfree ⊢
  exact .of_free rfl rfl rfl rfl (not_taken_of_none hp) hfree rfl rfl rfl

theorem spent_acceptIllegal (i : Instr) {s : State} (hp : s.pend = none) : Spent s (acceptIllegal i s) [] :=
  .of_free (List.append_nil _).symm rfl rfl rfl (not_taken_of_none hp)
    (not_taken_of_free_or_response (.inr ⟨_, rfl⟩)) rfl rfl rfl

/-- Every instruction accounts for the inputs it takes. -/
theorem exec_spent {i : Instr} {s u : State} (h : exec i s = .next u) : ∃ evs, Spent s u evs := by
  by_cases hl : i.layer = .host
  · obtain ⟨tab, acc, ht, he, hacc⟩ := exec_operates i hl
    have spent : ∀ {n v es}, Spent s v es → run tab n v = .next u → ∃ evs, Spent s u evs := fun hv hr =>
      (run_spent ht hr).elim (fun ⟨evs, hs, _⟩ => ⟨_, hv.trans hs⟩) fun ⟨evs, r, hs, _⟩ => ⟨_, hv.trans hs⟩
    rw [he] at h
    rcases operate_cases i acc tab (microSteps i) s with ⟨-, -, h1⟩ | ⟨-, hp, h1⟩ | h1 <;> rw [h1] at h
    · exact spent (.refl s) h
    · rcases hacc with ⟨m, -, rfl⟩ | ⟨-, rfl⟩
      · exact spent (spent_accept m i hp) h
      · exact spent (spent_acceptIllegal i hp) h
    · cases h; exact ⟨[], .refl s⟩
  · rcases exec_frame_cases i hl h with rfl | ⟨f, s0, hs0, hs⟩
    · exact ⟨[], .refl u⟩
    · have h0 : Spent s s0 [] := by
        rcases hs0 with ⟨_, rfl, -⟩ | ⟨rfl, hp, -⟩
        · exact .refl s0
        · exact spent_issue hp (fresh_write f) s.mode s.ctrl
      rcases hs with ⟨-, rfl, -⟩ | ⟨a, m, p, x, y, hd, ha, rfl, hp⟩
      · exact ⟨_, h0.trans (spent_takeRequest s0)⟩
      · refine ⟨_, h0.trans (u := s0) (fs := [.write f a]) ?_⟩
        have hp := none_or_response hp
        rcases hs0 with ⟨_, rfl, hq⟩ | ⟨rfl, -⟩
        · exact spent_write hq ha hp x y hd
        · exact spent_write rfl ha hp x y hd

/-- The host's bytes are no input that the events of an instruction take. -/
theorem Spent.of_bytes {s u : State} {bytes pkt : List Byte} {evs : List Event}
    (h : Spent { s with bytes := bytes, pkt := pkt } u evs) : Spent s u evs := ⟨h.trace, h.answers, h.ends, h.takes⟩

/-- Settles O47: a reset brings the inputs after it; an instruction accounts for what it takes, and the host's byte is
taken before it begins. -/
theorem eventsAccountForInputs : Obligations.EventsAccountForInputs := by
  intro s t h
  rcases step_cases h with ⟨hr, i, later, hl, rfl⟩ | ⟨hr, hg⟩
  · exact .inl ⟨hr, rfl, hl⟩
  obtain ⟨ha, hb, evs, hs⟩ : t.afterResets = s.afterResets ∧ (t.bytes = s.bytes ∨ ∃ b, s.bytes = b :: t.bytes) ∧
      ∃ evs, Spent s t evs := by
    rcases goOn_cases hg with ⟨_, _, i, -, -, he⟩ | ⟨-, -, he⟩ | ⟨-, -, b, later, i, _, hb, -, he⟩ |
      ⟨-, -, b, later, _, hb, -, rfl⟩ | ⟨-, -, -, rfl⟩
    · exact ⟨(exec_untouched he).afterResets, .inl (exec_untouched he).bytes, exec_spent he⟩
    · exact ⟨(exec_untouched he).afterResets, .inl (exec_untouched he).bytes, exec_spent he⟩
    · obtain ⟨evs, hs⟩ := exec_spent he
      exact ⟨(exec_untouched he).afterResets, .inr ⟨b, by rw [hb, (exec_untouched he).bytes]⟩, evs, hs.of_bytes⟩
    · have hs : Spent s { s with bytes := later, pkt := s.pkt ++ [b] } [] := (Spent.refl _).of_bytes
      exact ⟨rfl, .inr ⟨b, hb⟩, [], hs⟩
    · exact ⟨rfl, .inl rfl, [], .refl t⟩
  exact .inr ⟨hr, ha, evs, hs.trace, hs.answers, hs.ends, hs.takes, hb⟩

end Sys2Proof.Machine
end

section
/-! BusErrorsAreOpaque and LateAnswersAreIgnored: two blocks that are alike but for the names of their bus errors and for
moves that are not theirs do the same. One simulation, from the micro-step to the instruction, serves both. -/

namespace Sys2Proof.Machine

open Sys2Proof.Expect
open Host (Outcome)

/-! ## Ports that answer alike -/

/-- `B taken m m'` says that the moves `m` and `m'` of a port, with its request taken or not, are alike: both take the
request or neither does, and both answer it, the second with `g` of what the first answers, or neither does. -/
structure PortAlike {α : Type} (g : α → α) (B : Bool → List (PortMove α) → List (PortMove α) → Prop) : Prop where
  ready : ∀ m m', B false m m' → (afterReady m = none ∧ afterReady m' = none) ∨
    ∃ l l', afterReady m = some l ∧ afterReady m' = some l' ∧ B true l l'
  done : ∀ m m', B true m m' → (firstDone m = none ∧ firstDone m' = none) ∨
    ∃ x l l', firstDone m = some (x, l) ∧ firstDone m' = some (g x, l') ∧ B false l l'

/-- `s` with its bus errors renamed by `g`, and other moves of the Bus and the Clock. -/
def renamed (g : BusErr → BusErr) (bm : List BusMove) (cm : List ClockMove) (s : State) : State :=
  withMoves bm cm (mapErrors g s)

/-- Two blocks that are alike but for the names of bus errors and for moves that answer alike. -/
def Alike (g : BusErr → BusErr) (B : Bool → List BusMove → List BusMove → Prop)
    (C : Bool → List ClockMove → List ClockMove → Prop) (s s' : State) : Prop :=
  ∃ bm cm, s' = renamed g bm cm s ∧ B s.writeTaken s.busMoves bm ∧ C s.delayTaken s.clockMoves cm

/-- The same progress, in states that `R` relates. -/
inductive SameProgress (R : State → State → Prop) : Progress → Progress → Prop
  | waits {s s' : State} (h : R s s') : SameProgress R (.waits s) (.waits s')
  | goesOn {s s' : State} (h : R s s') : SameProgress R (.goesOn s) (.goesOn s')
  | ended {s s' : State} (h : R s s') : SameProgress R (.ended s) (.ended s')

/-- The same outcome, in states that `R` relates. -/
inductive SameOutcome (R : State → State → Prop) : Outcome State Fault Refusal → Outcome State Fault Refusal → Prop
  | next {s s' : State} (h : R s s') : SameOutcome R (.next s) (.next s')
  | fault (r : Fault) : SameOutcome R (.fault r) (.fault r)
  | refused (r : Refusal) : SameOutcome R (.refused r) (.refused r)

/-! ## Renaming commutes with the single updates -/

section Renamed

variable (g : BusErr → BusErr) (bm : List BusMove) (cm : List ClockMove)

@[simp] theorem renamed_pend (s : State) : (renamed g bm cm s).pend = s.pend.map (mapRequest g) := rfl
@[simp] theorem renamed_busMoves (s : State) : (renamed g bm cm s).busMoves = bm := rfl
@[simp] theorem renamed_clockMoves (s : State) : (renamed g bm cm s).clockMoves = cm := rfl
@[simp] theorem renamed_rspTakes (s : State) : (renamed g bm cm s).rspTakes = s.rspTakes := rfl
@[simp] theorem renamed_busy (s : State) : (renamed g bm cm s).busy = s.busy := rfl
@[simp] theorem renamed_op (s : State) : (renamed g bm cm s).op = s.op := rfl

@[simp] theorem renamed_writeTaken (s : State) : (renamed g bm cm s).writeTaken = s.writeTaken := by
  rcases hp : s.pend with _ | ⟨f, _ | _⟩ | ⟨n, _ | _⟩ | r <;> simp [State.writeTaken, hp, mapRequest]

@[simp] theorem standsAs_renamed (f : Frame) (s : State) : standsAs f (renamed g bm cm s) = standsAs f s := by
  rcases hp : s.pend with _ | ⟨f, ph⟩ | ⟨n, ph⟩ | r <;> simp [standsAs, hp, mapRequest]

theorem answerWrite_renamed (f : Frame) (a : Answer) (l l' : List BusMove) (s : State) :
    answerWrite f (mapAnswer g a) l' (renamed g bm cm s) = renamed g l' cm (answerWrite f a l s) := by
  simp [answerWrite, renamed, withMoves, mapErrors, mapEvent]

theorem endDelay_renamed (n : Millis) (l l' : List ClockMove) (s : State) :
    endDelay n l' (renamed g bm cm s) = renamed g bm l' (endDelay n l s) := by
  simp [endDelay, renamed, withMoves, mapErrors, mapEvent]

theorem giveResponse_renamed (r : Response) (later : Nat) (s : State) :
    giveResponse (mapResponse g r) { renamed g bm cm s with rspTakes := later } =
      renamed g bm cm (giveResponse r { s with rspTakes := later }) := by
  simp [giveResponse, renamed, withMoves, mapErrors, mapEvent]

theorem tryAnswer_renamed (a : Answer) (s : State) :
    tryAnswer (mapAnswer g a) (renamed g bm cm s) = renamed g bm cm (tryAnswer a s) := by cases a <;> rfl

/-- A row looks at no bus error, but for CLEAR's last, which hands on the one that is held. -/
theorem issue_renamed {i : Instr} {t : Table} (ht : tableOf i = some t) (s : State) :
    t.issue (renamed g bm cm s) = (t.issue s).map (renamed g bm cm) := by
  cases i <;> cases ht
  case init =>
    simp only [initTable, initIssue, renamed, withMoves, mapErrors]
    split <;> rfl
  case clear =>
    obtain ⟨⟩ := s
    rename Answer => held
    simp only [clearTable, clearIssue, renamed, withMoves, mapErrors]
    split <;> cases held <;> rfl
  case writeStr str =>
    simp only [writeStrTable, writeStrIssue, renamed, withMoves, mapErrors]
    split <;> (try split) <;> rfl
  case setRgb r g b =>
    simp only [setRgbTable, setRgbIssue, renamed, withMoves, mapErrors]
    split <;> rfl
  case illegal b => rfl
  all_goals
    simp only [flagTable, setCursorPositionTable, writeCharTable, oneWriteTable, renamed, withMoves, mapErrors]
    split <;> rfl

theorem answered_renamed {i : Instr} {t : Table} (ht : tableOf i = some t) (a : Answer) (s : State) :
    t.answered (mapAnswer g a) (renamed g bm cm s) = renamed g bm cm (t.answered a s) := by
  cases i <;> cases ht
  case init =>
    by_cases hu : s.upc = 7
    · rw [initTable_answered_held hu, initTable_answered_held (s := renamed g bm cm s) hu]
      rfl
    · rw [initTable_answered_other hu, initTable_answered_other (s := renamed g bm cm s) hu, tryAnswer_renamed]
  case clear => rfl
  case writeStr str => cases a <;> rfl
  all_goals exact tryAnswer_renamed g bm cm a s

theorem delayOver_renamed {i : Instr} {t : Table} (ht : tableOf i = some t) (s : State) :
    t.delayOver (renamed g bm cm s) = renamed g bm cm (t.delayOver s) := by
  cases i <;> cases ht
  case init =>
    by_cases hu : s.upc = 8
    · rw [initTable_delayOver_held hu, initTable_delayOver_held (s := renamed g bm cm s) hu]
      exact tryAnswer_renamed g bm cm s.held s
    · rw [initTable_delayOver_other hu, initTable_delayOver_other (s := renamed g bm cm s) hu]
      rfl
  all_goals rfl

theorem react_renamed (a : Answer) (s : State) :
    react (mapAnswer g a) (renamed g bm cm s) = renamed g bm cm (react a s) := by
  cases hb : s.busy with
  | false => rw [react_idle a hb, react_idle (s := renamed g bm cm s) _ hb]
  | true =>
    cases ht : tableOf s.op with
    | some t =>
      rw [react_running a hb ht, react_running (s := renamed g bm cm s) _ hb ht, answered_renamed g bm cm ht]
    | none => simp [react, hb, ht]

theorem accept_renamed (m : Mode) (i : Instr) (s : State) :
    accept m i (renamed g bm cm s) = renamed g bm cm (accept m i s) := by
  by_cases h : s.mode = m
  · rw [accept_admitted h, accept_admitted (s := renamed g bm cm s) h]
    simp [State.emit, latch, renamed, withMoves, mapErrors, mapEvent]
  · rw [accept_refused h, accept_refused (s := renamed g bm cm s) h]
    simp [State.emit, raise, State.request, latch, renamed, withMoves, mapErrors, mapEvent, mapRequest, mapResponse]

theorem acceptIllegal_renamed (i : Instr) (s : State) :
    acceptIllegal i (renamed g bm cm s) = renamed g bm cm (acceptIllegal i s) := rfl

theorem frameOf_renamed (i : Instr) (s : State) : frameOf (renamed g bm cm s) i = frameOf s i := by cases i <;> rfl

end Renamed

/-- Every instruction of the frame layer has a frame. -/
theorem frameOf_of_layer {i : Instr} (hl : i.layer ≠ .host) (s : State) : ∃ f, frameOf s i = some f := by
  cases i <;> simp [Instr.layer] at hl <;> exact ⟨_, rfl⟩

/-! ## The simulation -/

section Simulation

variable {g : BusErr → BusErr} {B : Bool → List BusMove → List BusMove → Prop}
  {C : Bool → List ClockMove → List ClockMove → Prop}

/-- States that differ from alike ones in neither port are alike, where none has a request taken. -/
theorem alike_of_free {s : State} {bm : List BusMove} {cm : List ClockMove}
    (hp : s.pend = none ∨ ∃ r, s.pend = some (.response r)) (hb : B false s.busMoves bm) (hc : C false s.clockMoves cm) :
    Alike g B C s (renamed g bm cm s) := by
  obtain ⟨hw, hd⟩ := not_taken_of_free_or_response hp
  exact ⟨bm, cm, rfl, by rwa [hw], by rwa [hd]⟩

theorem takeRequest_alike (hB : PortAlike (mapAnswer g) B) (hC : PortAlike id C) {s s' : State} (h : Alike g B C s s') :
    Alike g B C (takeRequest s) (takeRequest s') := by
  obtain ⟨bm, cm, rfl, hb, hc⟩ := h
  rcases hp : s.pend with _ | ⟨f, _ | _⟩ | ⟨n, _ | _⟩ | r
  case some.write.offered =>
    simp only [State.writeTaken, State.delayTaken, hp] at hb hc
    rcases hB.ready _ _ hb with ⟨h1, h2⟩ | ⟨l, l', h1, h2, hl⟩
    · simp only [takeRequest, renamed_pend, renamed_busMoves, hp, Option.map_some, mapRequest, h1, h2]
      exact ⟨bm, cm, rfl, by simpa [State.writeTaken, hp] using hb, by simpa [State.delayTaken, hp] using hc⟩
    · simp only [takeRequest, renamed_pend, renamed_busMoves, hp, Option.map_some, mapRequest, h1, h2]
      exact ⟨l', cm, rfl, hl, hc⟩
  case some.delay.offered =>
    simp only [State.writeTaken, State.delayTaken, hp] at hb hc
    rcases hC.ready _ _ hc with ⟨h1, h2⟩ | ⟨l, l', h1, h2, hl⟩
    · simp only [takeRequest, renamed_pend, renamed_clockMoves, hp, Option.map_some, mapRequest, h1, h2]
      exact ⟨bm, cm, rfl, by simpa [State.writeTaken, hp] using hb, by simpa [State.delayTaken, hp] using hc⟩
    · simp only [takeRequest, renamed_pend, renamed_clockMoves, hp, Option.map_some, mapRequest, h1, h2]
      exact ⟨bm, l', rfl, hb, hl⟩
  all_goals
    simp only [takeRequest, renamed_pend, hp, Option.map_some, Option.map_none, mapRequest]
    exact ⟨bm, cm, rfl, hb, hc⟩

theorem alike_answered {i : Instr} {t : Table} (ht : tableOf i = some t) {s : State} {bm l l' : List BusMove}
    {cm : List ClockMove} (hb : B false l l') (hc : C false s.clockMoves cm) (f : Frame) (a : Answer) :
    Alike g B C (t.answered a (answerWrite f a l s))
      (t.answered (mapAnswer g a) (answerWrite f (mapAnswer g a) l' (renamed g bm cm s))) := by
  rw [answerWrite_renamed g bm cm f a l l' s, answered_renamed g l' cm ht]
  obtain ⟨p, u, x, h, he, hp⟩ := answered_cases ht a (answerWrite f a l s)
  rw [he]
  exact alike_of_free (none_or_response hp) hb hc

theorem alike_react {s : State} {bm l l' : List BusMove} {cm : List ClockMove} (hb : B false l l')
    (hc : C false s.clockMoves cm) (f : Frame) (a : Answer) :
    Alike g B C (react a (answerWrite f a l s))
      (react (mapAnswer g a) (answerWrite f (mapAnswer g a) l' (renamed g bm cm s))) := by
  rw [answerWrite_renamed g bm cm f a l l' s, react_renamed g l' cm]
  obtain ⟨p, u, x, h, he, hp⟩ := react_cases a (answerWrite f a l s)
  rw [he]
  exact alike_of_free (none_or_response hp) hb hc

theorem alike_delayOver {i : Instr} {t : Table} (ht : tableOf i = some t) {s : State} {bm : List BusMove}
    {cm l l' : List ClockMove} (hb : B false s.busMoves bm) (hc : C false l l') (n : Millis) :
    Alike g B C (t.delayOver (endDelay n l s)) (t.delayOver (endDelay n l' (renamed g bm cm s))) := by
  rw [endDelay_renamed g bm cm n l l' s, delayOver_renamed g bm l' ht]
  obtain ⟨p, u, he, hp⟩ := delayOver_cases ht (endDelay n l s)
  rw [he]
  exact alike_of_free (none_or_response hp) hb hc

theorem alike_given {s : State} {bm : List BusMove} {cm : List ClockMove} (hb : B false s.busMoves bm)
    (hc : C false s.clockMoves cm) (r : Response) (later : Nat) :
    Alike g B C (giveResponse r { s with rspTakes := later })
      (giveResponse (mapResponse g r) { renamed g bm cm s with rspTakes := later }) := by
  rw [giveResponse_renamed]
  exact alike_of_free (.inl rfl) hb hc

/-- Alike blocks put the same row, or both have none. -/
theorem issueIfFree_alike {i : Instr} {t : Table} (ht : tableOf i = some t) {s s' : State} (h : Alike g B C s s') :
    (issueIfFree t s = none ∧ issueIfFree t s' = none) ∨
    ∃ s1 s1', issueIfFree t s = some s1 ∧ issueIfFree t s' = some s1' ∧ Alike g B C s1 s1' := by
  have hs := h
  obtain ⟨bm, cm, rfl, hb, hc⟩ := h
  cases hp : s.pend with
  | some q =>
    exact .inr ⟨_, _, issueIfFree_standing t hp, issueIfFree_standing t (r := mapRequest g q) (by simp [hp]), hs⟩
  | none =>
    rw [issueIfFree_free t hp, issueIfFree_free t (s := renamed g bm cm s) (by simp [hp]), issue_renamed g bm cm ht]
    cases hi : t.issue s with
    | none => exact .inl ⟨rfl, rfl⟩
    | some s1 =>
      obtain ⟨q, m, c, rfl, hq, -⟩ := issue_cases ht hi
      obtain ⟨hw, hd⟩ := not_taken_of_none hp
      obtain ⟨hw', hd'⟩ := not_taken_of_fresh (s := { s with pend := some q, mode := m, ctrl := c })
        (by rintro q' ⟨⟩; exact hq)
      exact .inr ⟨_, _, rfl, rfl, bm, cm, rfl, by rw [hw']; rwa [hw] at hb, by rw [hd']; rwa [hd] at hc⟩

/-- Alike blocks accept a packet alike. -/
theorem accepted_alike {i : Instr} {acc : State → State}
    (hacc : (∃ m, requiredMode i = some m ∧ acc = accept m i) ∨ (requiredMode i = none ∧ acc = acceptIllegal i))
    {s s' : State} (h : Alike g B C s s') (hp : s.pend = none) : Alike g B C (acc s) (acc s') := by
  obtain ⟨bm, cm, rfl, hb, hc⟩ := h
  obtain ⟨hw, hd⟩ := not_taken_of_none hp
  rw [hw] at hb
  rw [hd] at hc
  rcases hacc with ⟨m, -, rfl⟩ | ⟨-, rfl⟩
  · have hfree := accept_pend m i hp
    rw [accept_renamed]
    obtain ⟨p, he, -⟩ := accept_cases m i s
    rw [he] at hfree ⊢
    exact alike_of_free hfree hb hc
  · rw [acceptIllegal_renamed]
    exact alike_of_free (.inr ⟨_, rfl⟩) hb hc

variable (hB : PortAlike (mapAnswer g) B) (hC : PortAlike id C)

include hB hC

theorem settle_alike {i : Instr} {t : Table} (ht : tableOf i = some t) {s s' : State} (h : Alike g B C s s') :
    SameProgress (Alike g B C) (settle t s) (settle t s') := by
  have h1 := takeRequest_alike hB hC h
  unfold settle
  generalize takeRequest s = s1 at h1 ⊢
  generalize takeRequest s' = s1' at h1 ⊢
  have hw := h1
  obtain ⟨bm, cm, rfl, hb, hc⟩ := h1
  rcases hp : s1.pend with _ | ⟨f, _ | _⟩ | ⟨n, _ | _⟩ | r
  case some.write.taken =>
    simp only [State.writeTaken, State.delayTaken, hp] at hb hc
    rcases hB.done _ _ hb with ⟨h1, h2⟩ | ⟨x, l, l', h1, h2, hl⟩
    · simp only [renamed_pend, renamed_busMoves, hp, Option.map_some, mapRequest, h1, h2]
      exact .waits hw
    · simp only [renamed_pend, renamed_busMoves, hp, Option.map_some, mapRequest, h1, h2]
      exact .goesOn (alike_answered ht hl hc f x)
  case some.delay.taken =>
    simp only [State.writeTaken, State.delayTaken, hp] at hb hc
    rcases hC.done _ _ hc with ⟨h1, h2⟩ | ⟨x, l, l', h1, h2, hl⟩
    · simp only [renamed_pend, renamed_clockMoves, hp, Option.map_some, mapRequest, h1, h2]
      exact .waits hw
    · simp only [renamed_pend, renamed_clockMoves, hp, Option.map_some, mapRequest, h1, h2]
      exact .goesOn (alike_delayOver ht hb hl n)
  case some.response =>
    simp only [renamed_pend, renamed_rspTakes, hp, Option.map_some, mapRequest]
    split
    · simp only [State.writeTaken, State.delayTaken, hp] at hb hc
      exact .ended (alike_given hb hc r _)
    · exact .waits hw
  all_goals
    simp only [renamed_pend, hp, Option.map_some, Option.map_none, mapRequest]
    exact .waits hw

theorem run_alike {i : Instr} {t : Table} (ht : tableOf i = some t) : ∀ (n : Nat) {s s' : State}, Alike g B C s s' →
    SameOutcome (Alike g B C) (run t n s) (run t n s') := by
  intro n
  induction n with
  | zero => exact fun h => .next h
  | succ n ih =>
    intro s s' h
    rcases issueIfFree_alike ht h with ⟨hi, hi'⟩ | ⟨s1, s1', hi, hi', h1⟩
    · simp only [run, hi, hi']
      exact .fault _
    · have h2 := settle_alike hB hC ht h1
      simp only [run, hi, hi']
      generalize settle t s1 = p at h2
      generalize settle t s1' = p' at h2
      cases h2 with
      | waits h2 => exact .next h2
      | goesOn h2 => exact ih h2
      | ended h2 => exact .next h2

theorem answerFrame_alike (f : Frame) {s s' : State} (h : Alike g B C s s') :
    Alike g B C (answerFrame f s) (answerFrame f s') := by
  have h1 := takeRequest_alike hB hC h
  unfold answerFrame
  generalize takeRequest s = s1 at h1 ⊢
  generalize takeRequest s' = s1' at h1 ⊢
  have hw := h1
  obtain ⟨bm, cm, rfl, hb, hc⟩ := h1
  simp only [renamed_writeTaken, renamed_busMoves]
  split
  case isFalse => exact hw
  case isTrue htk =>
    have hd : s1.delayTaken = false := by
      rcases hp : s1.pend with _ | ⟨f, _ | _⟩ | ⟨n, _ | _⟩ | r <;> simp_all [State.writeTaken, State.delayTaken]
    rw [htk] at hb
    rw [hd] at hc
    rcases hB.done _ _ hb with ⟨h1, h2⟩ | ⟨x, l, l', h1, h2, hl⟩
    · simp only [h1, h2]
      exact hw
    · simp only [h1, h2]
      exact alike_react hl hc f x

theorem transact_alike (f : Frame) {s s' : State} (h : Alike g B C s s') :
    Alike g B C (transact f s) (transact f s') := by
  have hs := h
  obtain ⟨bm, cm, rfl, hb, hc⟩ := h
  simp only [transact, standsAs_renamed, renamed_pend, renamed_busy, Option.isNone_map]
  split
  · exact answerFrame_alike hB hC f hs
  · split
    · rename_i hi
      have hp : s.pend = none := by
        simp only [Bool.and_eq_true, Option.isNone_iff_eq_none] at hi
        exact hi.1
      obtain ⟨hw, hd⟩ := not_taken_of_none hp
      exact answerFrame_alike hB hC f ⟨bm, cm, rfl, by rwa [hw] at hb, by rwa [hd] at hc⟩
    · exact hs

/-- Alike blocks do the same on every instruction. -/
theorem exec_alike (i : Instr) {s s' : State} (h : Alike g B C s s') :
    SameOutcome (Alike g B C) (exec i s) (exec i s') := by
  have hs := h
  obtain ⟨bm, cm, rfl, -, -⟩ := h
  by_cases hl : i.layer = .host
  · obtain ⟨t, acc, ht, he, hacc⟩ := exec_operates i hl
    rw [he, he]
    cases hbusy : s.busy with
    | true =>
      by_cases ho : s.op = i
      · rw [operate_running hbusy ho, operate_running (s := renamed g bm cm s) hbusy ho]
        exact run_alike hB hC ht _ hs
      · simpa [operate, hbusy, ho] using .next hs
    | false =>
      cases hp : s.pend with
      | some q => simpa [operate, hbusy, hp] using .next hs
      | none =>
        rw [operate_idle hbusy hp, operate_idle (s := renamed g bm cm s) hbusy (by simp [hp])]
        exact run_alike hB hC ht _ (accepted_alike hacc hs hp)
  · obtain ⟨f, hf⟩ := frameOf_of_layer hl s
    rw [exec_of_frameOf hf, exec_of_frameOf ((frameOf_renamed g bm cm i s).trans hf)]
    exact .next (transact_alike hB hC f hs)

end Simulation

end Sys2Proof.Machine
end

section
/-! BusErrorsAreOpaque: the simulation with renamed answers, taken from the instruction to the step. -/

namespace Sys2Proof.Machine

open Sys2Proof.Expect

theorem afterReady_map (g : BusErr → BusErr) (m : List BusMove) :
    afterReady (m.map (mapMove g)) = (afterReady m).map (List.map (mapMove g)) := by
  induction m with
  | nil => rfl
  | cons x m ih => cases x <;> simp [mapMove, afterReady, ih]

theorem firstDone_map (g : BusErr → BusErr) (m : List BusMove) :
    firstDone (m.map (mapMove g)) = (firstDone m).map (Prod.map (mapAnswer g) (List.map (mapMove g))) := by
  induction m with
  | nil => rfl
  | cons x m ih => cases x <;> simp [mapMove, firstDone, ih]

/-- The moves of the Bus are renamed. -/
def RenamedMoves (g : BusErr → BusErr) (_ : Bool) (m m' : List BusMove) : Prop := m' = m.map (mapMove g)

/-- The moves of a port are the same. -/
def SameMoves {α : Type} (_ : Bool) (m m' : List (PortMove α)) : Prop := m' = m

theorem portAlike_renamed (g : BusErr → BusErr) : PortAlike (mapAnswer g) (RenamedMoves g) where
  ready := by
    rintro m _ rfl
    cases h : afterReady m <;> simp [afterReady_map, h, RenamedMoves]
  done := by
    rintro m _ rfl
    cases h : firstDone m <;> simp [firstDone_map, h, RenamedMoves, Prod.ext_iff]

theorem portAlike_same (α : Type) : PortAlike (id : α → α) SameMoves where
  ready := by
    rintro m m' rfl
    cases h : afterReady m' <;> simp [SameMoves]
  done := by
    rintro m m' rfl
    cases h : firstDone m' <;> simp [SameMoves, Prod.ext_iff]

/-- R32 of an instruction. -/
theorem exec_mapErrors (g : BusErr → BusErr) (i : Instr) (s : State) :
    exec i (mapErrors g s) = mapOutcome (mapErrors g) (exec i s) := by
  have h := exec_alike (portAlike_renamed g) (portAlike_same Unit) i (s := s) (s' := mapErrors g s) ⟨_, _, rfl, rfl, rfl⟩
  generalize exec i s = o at h ⊢
  generalize exec i (mapErrors g s) = o' at h ⊢
  cases h with
  | next h =>
    obtain ⟨_, _, rfl, rfl, rfl⟩ := h
    rfl
  | fault r => rfl
  | refused r => rfl

theorem goOn_mapErrors (g : BusErr → BusErr) (s : State) :
    goOn (mapErrors g s) = mapOutcome (mapErrors g) (goOn s) := by
  have hpend : (mapErrors g s).pend = s.pend.map (mapRequest g) := rfl
  have resumes : (s.busy = true ∨ s.pend ≠ none) → (∀ f ph, s.pend ≠ some (.write f ph)) →
      goOn (mapErrors g s) = mapOutcome (mapErrors g) (goOn s) := by
    intro hb hw
    rw [goOn_resumes hb hw, goOn_resumes (s := mapErrors g s)]
    · exact exec_mapErrors g s.op s
    · exact hb.imp id fun h => by simpa [hpend] using h
    · intro f ph
      rcases hp : s.pend with _ | ⟨f', ph'⟩ | ⟨n, ph'⟩ | r <;> simp_all [mapRequest]
  rcases hp : s.pend with _ | ⟨f, ph⟩ | ⟨n, ph⟩ | r
  case some.write =>
    have hp' : (mapErrors g s).pend = some (.write f ph) := by simp [hpend, hp, mapRequest]
    cases hi : frameKind f s with
    | none => rw [goOn_stray hp hi, goOn_stray hp' hi]; rfl
    | some i => rw [goOn_frame hp hi, goOn_frame hp' hi, exec_mapErrors]
  case some.delay => exact resumes (.inr (by simp [hp])) (by simp [hp])
  case some.response => exact resumes (.inr (by simp [hp])) (by simp [hp])
  case none =>
    cases hbusy : s.busy with
    | true => exact resumes (.inl hbusy) (by simp [hp])
    | false =>
      have hidle : (mapErrors g s).idle := ⟨hbusy, by simp [hpend, hp]⟩
      cases hb : s.bytes with
      | nil => rw [goOn_noByte ⟨hbusy, hp⟩ hb, goOn_noByte hidle hb]; rfl
      | cons b later =>
        cases hd : decode (s.pkt ++ [b]) with
        | error e => rw [goOn_byte ⟨hbusy, hp⟩ hb hd, goOn_byte hidle hb hd]; rfl
        | ok r =>
          rw [goOn_packet ⟨hbusy, hp⟩ hb hd, goOn_packet hidle hb hd]
          exact exec_mapErrors g r.1 { s with bytes := later, pkt := [] }

theorem waits_mapErrors (g : BusErr → BusErr) (s : State) : (mapErrors g s).waits = s.waits := by
  rcases hp : s.pend with _ | ⟨f, _ | _⟩ | ⟨n, _ | _⟩ | r <;>
    simp [State.waits, mapErrors, hp, mapRequest, afterReady_map, firstDone_map]

theorem stalled_mapErrors (g : BusErr → BusErr) (s : State) : (mapErrors g s).stalled = s.stalled := by
  have hw := waits_mapErrors g s
  have hpend : (mapErrors g s).pend = s.pend.map (mapRequest g) := rfl
  rcases hp : s.pend with _ | ⟨f, ph⟩ | ⟨n, ph⟩ | r <;>
    simp only [State.stalled, hpend, hp, Option.map_some, mapRequest, hw]
  all_goals rfl

/-- Settles O57: a reset brings renamed inputs, and the block goes on alike. -/
theorem busErrorsAreOpaque : Obligations.BusErrorsAreOpaque := by
  intro g s
  have hresets : (mapErrors g s).afterResets = s.afterResets.map (mapInputs g) := rfl
  simp only [step, stalled_mapErrors, hresets]
  split
  · cases s.afterResets with
    | nil => exact goOn_mapErrors g s
    | cons i later => rfl
  · exact goOn_mapErrors g s

end Sys2Proof.Machine
end

section
/-! LateAnswersAreIgnored: the simulation with the errors' own names and with moves that answer nothing put in or taken
out. -/

namespace Sys2Proof.Machine

open Sys2Proof.Expect

/-! ## Nothing renamed -/

theorem mapAnswer_id : mapAnswer id = id := by
  funext a
  cases a <;> rfl

theorem mapResponse_id : mapResponse id = id := by
  funext r
  cases r <;> rfl

theorem mapRequest_id : mapRequest id = id := by
  funext q
  cases q <;> simp [mapRequest, mapResponse_id]

theorem mapMove_id : mapMove id = id := by
  funext m
  cases m <;> simp [mapMove, mapAnswer_id]

theorem mapInputs_id : mapInputs id = id := by
  funext i
  simp [mapInputs, mapMove_id]

theorem mapEvent_id : mapEvent id = id := by
  funext e
  cases e <;> simp [mapEvent, mapAnswer_id, mapResponse_id]

theorem renamed_id (bm : List BusMove) (cm : List ClockMove) (s : State) : renamed id bm cm s = withMoves bm cm s := by
  simp [renamed, mapErrors, mapAnswer_id, mapRequest_id, mapInputs_id, mapEvent_id, withMoves]

/-- An instruction does the same, and leaves moves that are alike, where the moves are alike. -/
theorem exec_withMoves {B : Bool → List BusMove → List BusMove → Prop} {C : Bool → List ClockMove → List ClockMove → Prop}
    (hB : PortAlike id B) (hC : PortAlike id C) {i : Instr} {s t : State} {bm : List BusMove} {cm : List ClockMove}
    (hb : B s.writeTaken s.busMoves bm) (hc : C s.delayTaken s.clockMoves cm) (h : exec i s = .next t) :
    ∃ bm' cm', exec i (withMoves bm cm s) = .next (withMoves bm' cm' t) ∧ B t.writeTaken t.busMoves bm' ∧
      C t.delayTaken t.clockMoves cm' := by
  have hx := exec_alike (g := id) (by rwa [mapAnswer_id]) hC i ⟨bm, cm, rfl, hb, hc⟩
  rw [h, renamed_id] at hx
  generalize exec i (withMoves bm cm s) = o at hx ⊢
  cases hx with
  | next hx =>
    obtain ⟨bm', cm', rfl, hb', hc'⟩ := hx
    exact ⟨bm', cm', by rw [renamed_id], hb', hc'⟩

/-! ## The moves that are ignored -/

section Moves

variable {α : Type}

/-- The moves are the same but for late answers. -/
def SameOnTime (_ : Bool) (m m' : List (PortMove α)) : Prop := onTime m' = onTime m

/-- The moves are the same, or the request is not taken and the second begin with some answers. -/
def SameButEarly (early : List α) (taken : Bool) (m m' : List (PortMove α)) : Prop :=
  m' = m ∨ (taken = false ∧ m' = early.map .done ++ m)

theorem afterReady_onTime (m : List (PortMove α)) : afterReady (onTime m) = (afterReady m).map onTime := by
  induction m with
  | nil => rfl
  | cons x m ih => cases x <;> simp [onTime, afterReady, ih]

theorem firstDone_onTime (m : List (PortMove α)) : firstDone (onTime m) = (firstDone m).map (Prod.map id onTime) := by
  induction m with
  | nil => rfl
  | cons x m ih => cases x <;> simp [onTime, firstDone, ih]

theorem portAlike_onTime : PortAlike (id : α → α) SameOnTime where
  ready := by
    intro m m' h
    have h' : (afterReady m').map onTime = (afterReady m).map onTime := by
      rw [← afterReady_onTime, ← afterReady_onTime, h]
    cases h1 : afterReady m <;> cases h2 : afterReady m' <;> simp_all [SameOnTime]
  done := by
    intro m m' h
    have h' : (firstDone m').map (Prod.map id onTime) = (firstDone m).map (Prod.map id onTime) := by
      rw [← firstDone_onTime, ← firstDone_onTime, h]
    cases h1 : firstDone m <;> cases h2 : firstDone m' <;> simp_all [SameOnTime, Prod.ext_iff]

theorem afterReady_early (early : List α) (m : List (PortMove α)) :
    afterReady (early.map .done ++ m) = afterReady m := by
  induction early with
  | nil => rfl
  | cons x early ih => simpa [afterReady] using ih

theorem answersAhead_early (early : List α) (m : List (PortMove α)) :
    answersAhead false (early.map .done ++ m) = answersAhead false m := by
  rw [answersAhead_offered, answersAhead_offered, afterReady_early]

theorem portAlike_early (early : List α) : PortAlike (id : α → α) (SameButEarly early) where
  ready := by
    intro m m' h
    have h' : afterReady m' = afterReady m := by
      rcases h with rfl | ⟨-, rfl⟩
      · rfl
      · exact afterReady_early early m
    cases h1 : afterReady m <;> simp_all [SameButEarly]
  done := by
    rintro m m' (rfl | ⟨h, -⟩)
    · cases h1 : firstDone m' <;> simp [SameButEarly, Prod.ext_iff]
    · cases h

/-- Early answers are no answers ahead. -/
theorem SameButEarly.answersAhead {early : List α} {taken : Bool} {m m' : List (PortMove α)}
    (h : SameButEarly early taken m m') : answersAhead taken m' = answersAhead taken m := by
  rcases h with rfl | ⟨rfl, rfl⟩
  · rfl
  · exact answersAhead_early early m

end Moves

/-- Settles O41: late answers may come anywhere, and early ones before the request is taken. -/
theorem lateAnswersAreIgnored : Obligations.LateAnswersAreIgnored := by
  refine ⟨fun i s t bm cm hb hc h => ?_, fun i s t early hw h => ?_, fun i s t early hd h => ?_⟩
  · exact exec_withMoves portAlike_onTime portAlike_onTime hb hc h
  · obtain ⟨bm, _, hx, hb, rfl⟩ := exec_withMoves (portAlike_early early) (portAlike_same Unit)
      (bm := early.map .done ++ s.busMoves) (.inr ⟨hw, rfl⟩) rfl h
    exact ⟨bm, hx, hb.answersAhead⟩
  · obtain ⟨_, cm, hx, rfl, hc⟩ := exec_withMoves (portAlike_same Answer) (portAlike_early (List.replicate early ()))
      (cm := (List.replicate early ()).map .done ++ s.clockMoves) rfl (.inr ⟨hd, rfl⟩) h
    rw [List.map_replicate] at hx
    exact ⟨cm, hx, congrArg List.length hc.answersAhead⟩

end Sys2Proof.Machine
end

section
/-! Requests that wait, are taken, and are answered (UnansweredRequestIsNeverPassed, TakenRequestAwaitsItsAnswer,
ResponseTakenEndsTheOperation, StandingDelayEndReachesItsOperation). -/

namespace Sys2Proof.Machine

open Sys2Proof.Expect

/-! ## A request that waits -/

/-- A request that waits gets no further. -/
theorem takeRequest_of_waits {s : State} (h : s.waits = true) : takeRequest s = s := by
  rcases takeRequest_cases s with he | ⟨f, l, hp, hl, -⟩ | ⟨n, l, hp, hl, -⟩
  · exact he
  · simp [State.waits, hp, hl] at h
  · simp [State.waits, hp, hl] at h

theorem busAnswers_of_waits {s : State} {f : Frame} {ph : Phase} (hp : s.pend = some (.write f ph))
    (h : s.waits = true) : s.busAnswers = [] := by
  cases ph <;> simp only [State.waits, hp, Option.isNone_iff_eq_none] at h <;>
    simp only [State.busAnswers, State.writeTaken, hp]
  · rw [answersAhead_offered, h]
  · rw [answersAhead_taken, h]

theorem delayEnds_of_waits {s : State} {n : Millis} {ph : Phase} (hp : s.pend = some (.delay n ph))
    (h : s.waits = true) : s.delayEnds = 0 := by
  cases ph <;> simp only [State.waits, hp, Option.isNone_iff_eq_none] at h <;>
    simp only [State.delayEnds, State.delayTaken, hp]
  · rw [answersAhead_offered, h, List.length_nil]
  · rw [answersAhead_taken, h, List.length_nil]

theorem rspTakes_of_waits {s : State} {r : Response} (hp : s.pend = some (.response r)) (h : s.waits = true) :
    s.rspTakes = 0 := by
  simpa [State.waits, hp] using h

/-- What is taken and then waits is all that `settle` does. -/
theorem settle_to_wait (t : Table) {s : State} (h : (takeRequest s).waits = true) :
    settle t s = .waits (takeRequest s) := by
  unfold settle
  generalize takeRequest s = s1 at h ⊢
  rcases hp : s1.pend with _ | ⟨f, _ | _⟩ | ⟨n, _ | _⟩ | r <;> simp_all [State.waits]

theorem settle_of_waits (t : Table) {s : State} (h : s.waits = true) : settle t s = .waits s := by
  have he := takeRequest_of_waits h
  simpa only [he] using settle_to_wait t (s := s) (by rwa [he])

theorem answerFrame_to_wait {s : State} (f : Frame) (h : (takeRequest s).waits = true) :
    answerFrame f s = takeRequest s := by
  unfold answerFrame
  generalize takeRequest s = s1 at h ⊢
  rcases hp : s1.pend with _ | ⟨f, _ | _⟩ | ⟨n, _ | _⟩ | r <;> simp_all [State.waits, State.writeTaken]

theorem microSteps_pos (i : Instr) : ∃ n, microSteps i = n + 1 := by cases i <;> simp [microSteps]

/-- The meaning of a running operation is the run of its table. -/
theorem exec_run {s : State} (hl : s.op.layer = .host) (hb : s.busy = true) :
    ∃ t, tableOf s.op = some t ∧ exec s.op s = run t (microSteps s.op) s := by
  obtain ⟨t, _, ht, he, -⟩ := exec_operates s.op hl
  exact ⟨t, ht, (he s).trans (operate_running hb rfl)⟩

/-- The write that stands at the port of a running operation is one of the twelve kinds of frame. -/
theorem State.Running.frame {s : State} {f : Frame} {ph : Phase} (h : s.Running) (hp : s.pend = some (.write f ph)) :
    ∃ i, frameKind f s = some i := by
  obtain ⟨-, ⟨m, c, hr⟩, -⟩ := h.standing hp (by simp)
  exact Option.isSome_iff_exists.1 (row_frameKind hr)

/-- A standing request that is taken, as far as the moves go, and then waits is all that the block does. -/
theorem State.Running.goOn_to_wait {s : State} (h : s.Running) (hp : s.pend ≠ none) (hw : (takeRequest s).waits = true) :
    goOn s = .next (takeRequest s) := by
  obtain ⟨q, hq⟩ := Option.ne_none_iff_exists'.1 hp
  have resumes : (∀ f ph, s.pend ≠ some (.write f ph)) → goOn s = .next (takeRequest s) := by
    intro hnw
    obtain ⟨t, -, he⟩ := exec_run h.host h.busy
    obtain ⟨n, hn⟩ := microSteps_pos s.op
    rw [goOn_resumes (.inl h.busy) hnw, he, hn, run_waits t n (issueIfFree_standing t hq) (settle_to_wait t hw)]
  cases q with
  | write f ph =>
    obtain ⟨i, hi⟩ := h.frame hq
    rw [goOn_write hq hi, answerFrame_to_wait f hw]
  | delay n ph => exact resumes (by simp [hq])
  | response r => exact resumes (by simp [hq])

/-- A block in which an operation runs and the invariant holds. -/
theorem State.Inv.running {s : State} (h : s.Inv) (hb : s.busy = true) : s.Running :=
  (inv_iff.1 h).resolve_right fun ⟨_, _, _, hb', _⟩ => by cases hb.symm.trans hb'

theorem pend_ne_none_of_waits {s : State} (h : s.waits = true) : s.pend ≠ none := by
  intro hp
  simp [State.waits, hp] at h

/-- A run that begins with a step that leaves the state stays there. -/
theorem run_core_rest {s : State} (h : step s = .next s) (n : Nat) : Host.Core.run Sys2Proof.core n s = .next s := by
  induction n with
  | zero => rfl
  | succ n ih => exact (run_core_succ h n).trans ih

/-- Settles O39: a request that waits gets no further, so the step leaves the state. -/
theorem unansweredRequestIsNeverPassed : Obligations.UnansweredRequestIsNeverPassed := by
  intro s n hs hb hw hr
  have he := takeRequest_of_waits hw
  have hstep : step s = .next s := by
    rw [step_goOn hr, (hs.running hb).goOn_to_wait (pend_ne_none_of_waits hw) (by rwa [he]), he]
  exact ⟨hstep, run_core_rest hstep n⟩

/-! ## A request that is taken -/

theorem afterReady_first {α : Type} {before : List (PortMove α)} (h : .ready ∉ before) (after : List (PortMove α)) :
    afterReady (before ++ .ready :: after) = some after := by
  induction before with
  | nil => rfl
  | cons x before ih => cases x <;> simp_all [afterReady]

theorem firstDone_eq_none {α : Type} {m : List (PortMove α)} (h : ∀ x, .done x ∉ m) : firstDone m = none := by
  induction m with
  | nil => rfl
  | cons x m ih =>
    have ih := ih fun y hy => h y (List.mem_cons_of_mem _ hy)
    cases x with
    | done y => exact absurd List.mem_cons_self (h y)
    | ready => exact ih
    | late y => exact ih

/-- Settles O40: the request is taken by the first `ready`, and no answer follows. -/
theorem takenRequestAwaitsItsAnswer : Obligations.TakenRequestAwaitsItsAnswer := by
  intro s hs hb hr
  have step_to_wait : ∀ t, takeRequest s = t → t.waits = true → s.pend ≠ none → step s = .next t := by
    rintro _ rfl hw hp
    rw [step_goOn hr, (hs.running hb).goOn_to_wait hp hw]
  refine ⟨fun f before after hp hm hbefore hafter => ?_, fun n before after hp hm hbefore hafter => ?_⟩
  · have hw : State.waits { s with pend := some (.write f .taken), busMoves := after } = true := by
      simp [State.waits, firstDone_eq_none hafter]
    have ht : takeRequest s = { s with pend := some (.write f .taken), busMoves := after } := by
      simp [takeRequest, hp, hm, afterReady_first hbefore]
    exact ⟨_, step_to_wait _ ht hw (by simp [hp]), rfl, by simp [busValid, offeredWrite, hp],
      by simp [busValid, offeredWrite], hw⟩
  · have hw : State.waits { s with pend := some (.delay n .taken), clockMoves := after } = true := by
      simp [State.waits, firstDone_eq_none (fun _ => hafter)]
    have ht : takeRequest s = { s with pend := some (.delay n .taken), clockMoves := after } := by
      simp [takeRequest, hp, hm, afterReady_first hbefore]
    exact ⟨_, step_to_wait _ ht hw (by simp [hp]), rfl, by simp [dlyValid, dlyMs, hp], by simp [dlyValid, dlyMs], hw⟩

/-! ## A request that is answered -/

/-- Settles O28. -/
theorem responseTakenEndsTheOperation : Obligations.ResponseTakenEndsTheOperation := by
  intro s r k hb hl hp hr
  have hreset : s.resetComes = false := by simp [State.resetComes, State.stalled, State.waits, hp, hb, hr]
  obtain ⟨t, -, he⟩ := exec_run hl hb
  obtain ⟨n, hn⟩ := microSteps_pos s.op
  refine ⟨(step_goOn hreset).trans (goOn_resumes (.inl hb) (by simp [hp])), ?_⟩
  rw [he, hn, run_ended t n (issueIfFree_standing t hp) (settle_response t hp hr)]
  rfl

/-- A delay that is over leads to the next row's request, and there the operation waits, where nothing answers it. -/
theorem exec_delay_over {s v : State} {t : Table} {n : Millis} {ph : Phase} {m : List ClockMove} {j : Nat}
    (he : exec s.op s = run t (j + 2) s) (hp : s.pend = some (.delay n ph))
    (hs : settle t s = .goesOn (t.delayOver (endDelay n m s)))
    (hi : issueIfFree t (t.delayOver (endDelay n m s)) = some v) (hw : v.waits = true) : exec s.op s = .next v := by
  rw [he, run_goesOn t _ (issueIfFree_standing t hp) hs, run_waits t j hi (settle_of_waits t hw)]

/-- INIT's row of a function set, reached from the delay before it. -/
theorem init_function_set_after_delay {s : State} (h1 : s.upc = 0 ∨ s.upc = 2 ∨ s.upc = 4) (n : Millis)
    (m : List ClockMove) :
    issueIfFree initTable (initTable.delayOver (endDelay n m s)) =
      some (offers (lcdCmd s (0x20#8 ||| s.showFunction))
        { s with upc := s.upc + 1, clockMoves := m, trace := s.trace ++ [.delay n] }) := by
  have h8 : (endDelay n m s).upc ≠ 8 := by rw [endDelay_upc]; omega
  have hrow : (endDelay n m s).nextUpc.upc = 1 ∨ (endDelay n m s).nextUpc.upc = 3 ∨ (endDelay n m s).nextUpc.upc = 5 := by
    simpa using h1
  rw [initTable_delayOver_other h8, issueIfFree_free _ rfl, issue_of_row (i := .init) rfl (.initFunctionSet hrow)]
  rfl

/-- INIT's row of the entry mode, reached where the clear write answered `Ok`. -/
theorem init_entry_mode_after_delay {s : State} (hu : s.upc = 8) (hh : s.held = .ok) (n : Millis) (m : List ClockMove) :
    issueIfFree initTable (initTable.delayOver (endDelay n m s)) =
      some (offers (lcdCmd s 0x06#8) { s with upc := 9, clockMoves := m, trace := s.trace ++ [.delay n] }) := by
  have hrow : (endDelay n m s).nextUpc.upc = 9 := by simp [hu]
  have hheld : (endDelay n m s).held = .ok := hh
  rw [initTable_delayOver_held (s := endDelay n m s) hu, hheld, tryAnswer_ok, issueIfFree_free _ rfl,
    issue_of_row (i := .init) rfl (.initEntryMode hrow)]
  simp [offers, State.nextUpc, endDelay, hu, cmd, lcdCmd, entryModeByte]

/-- INIT's abort where the clear write failed (R88). -/
theorem init_abort_after_delay {s : State} {e : BusErr} (hu : s.upc = 8) (hh : s.held = .err e) (n : Millis)
    (m : List ClockMove) :
    issueIfFree initTable (initTable.delayOver (endDelay n m s)) =
      some (responds (.busError e) { s with clockMoves := m, trace := s.trace ++ [.delay n] }) := by
  have hheld : (endDelay n m s).held = .err e := hh
  rw [initTable_delayOver_held (s := endDelay n m s) hu, hheld, tryAnswer_err, issueIfFree_standing _ rfl]
  rfl

/-- CLEAR's last row, reached from its delay. -/
theorem clear_status_after_delay {s : State} (hu : s.upc = 1) (n : Millis) (m : List ClockMove) :
    issueIfFree clearTable (clearTable.delayOver (endDelay n m s)) =
      some (responds (statusOf s.held) { s with upc := 2, clockMoves := m, trace := s.trace ++ [.delay n] }) := by
  have hrow : (endDelay n m s).nextUpc.upc = 2 := by simp [hu]
  rw [show clearTable.delayOver = State.nextUpc from rfl, issueIfFree_free _ rfl,
    issue_of_row (i := .clear) rfl (.clearStatus hrow)]
  simp [responds, State.nextUpc, endDelay, hu]

theorem waits_offers {s : State} {f : Frame} (h : s.busMoves = []) : (offers f s).waits = true := by
  simp [offers, State.waits, h, afterReady]

theorem waits_responds {s : State} {r : Response} (h : s.rspTakes = 0) : (responds r s).waits = true := by
  simp [responds, State.waits, h]

/-- Settles O27: the delay is that of the row the operation stands at, and the row after it puts its request. -/
theorem standingDelayEndReachesItsOperation : Obligations.StandingDelayEndReachesItsOperation := by
  intro s n ph k hs hb hp hk hbm hrt
  have hrun := hs.running hb
  obtain ⟨-, ⟨mode, ctrl, hrow⟩, -⟩ := hrun.standing hp (by simp)
  obtain ⟨t, ht, he⟩ := exec_run hrun.host hb
  obtain ⟨m, hm, hset⟩ := settle_delay t hp hk
  have goes_to : ∀ {j v}, microSteps s.op = j + 2 → issueIfFree t (t.delayOver (endDelay n m s)) = some v →
      v.waits = true → exec s.op s = .next v := fun hj => exec_delay_over (by rw [he, hj]) hp hset
  have init_table : s.op = .init → t = initTable := by
    intro ho
    rw [ho] at ht
    exact (Option.some.inj ht).symm
  have function_set : s.op = .init → s.upc = 0 ∨ s.upc = 2 ∨ s.upc = 4 →
      exec s.op s = .next (offers (lcdCmd s (0x20#8 ||| s.showFunction))
        { s with upc := s.upc + 1, clockMoves := m, trace := s.trace ++ [.delay n] }) := by
    intro ho hu
    obtain rfl := init_table ho
    exact goes_to (by rw [ho]; rfl) (init_function_set_after_delay hu n m) (waits_offers hbm)
  refine ⟨m, ?_⟩
  generalize ho : s.op = i at hrow
  simp only [Request.asPut] at hrow
  cases hrow with
  | initPowerOn hu =>
    exact ⟨_, hm, ho ▸ function_set ho (.inl hu), .inr (.inl ⟨rfl, .inl ⟨hu, rfl⟩, ho ▸ rfl⟩)⟩
  | initFunctionSetDelay hu =>
    refine ⟨_, hm, ho ▸ function_set ho (.inr hu), .inr (.inl ⟨rfl, .inr ?_, ho ▸ rfl⟩)⟩
    exact hu.imp (fun h => ⟨h, rfl⟩) fun h => ⟨h, rfl⟩
  | initClearDelay hu =>
    obtain rfl := init_table ho
    have hj : microSteps s.op = 12 + 2 := by rw [ho]; rfl
    obtain hh | ⟨e, hh⟩ : s.held = .ok ∨ ∃ e, s.held = .err e := by cases s.held <;> simp
    · refine ⟨_, hm, ho ▸ goes_to hj (init_entry_mode_after_delay hu hh _ m) (waits_offers hbm),
        .inr (.inr ⟨rfl, hu, rfl, ?_⟩)⟩
      simp [hh]
    · refine ⟨_, hm, ho ▸ goes_to hj (init_abort_after_delay hu hh _ m) (waits_responds hrt),
        .inr (.inr ⟨rfl, hu, rfl, ?_⟩)⟩
      simp [hh]
  | clearDelay hu =>
    rw [ho] at ht
    cases ht
    exact ⟨_, hm, ho ▸ goes_to (j := 1) (by rw [ho]; rfl) (clear_status_after_delay hu _ m) (waits_responds hrt),
      .inl ⟨rfl, hu, rfl, ho ▸ rfl⟩⟩

end Sys2Proof.Machine
end

section
/-! LaterInputsChangeNothing: a request that the moves already there answer is answered the same with more behind. -/

namespace Sys2Proof.Machine

open Sys2Proof.Expect

section More

variable (x : Inputs) (rs : List Inputs)

theorem issue_withMore {i : Instr} {t : Table} (ht : tableOf i = some t) (s : State) :
    t.issue (withMore x rs s) = (t.issue s).map (withMore x rs) := by
  have h := issue_inputs ht
    ⟨s.bytes ++ x.bytes, s.busMoves ++ x.busMoves, s.clockMoves ++ x.clockMoves, s.rspTakes + x.rspTakes⟩
    (s.afterResets ++ rs) s.trace s
  cases hi : t.issue s with
  | none => rw [hi] at h; exact h
  | some s1 =>
    rw [hi] at h
    obtain ⟨q, m, c, rfl, -⟩ := issue_cases ht hi
    exact h

theorem answered_withMore {i : Instr} {t : Table} (ht : tableOf i = some t) (a : Answer) (s : State) :
    t.answered a (withMore x rs s) = withMore x rs (t.answered a s) := by
  have h := answered_inputs ht
    ⟨s.bytes ++ x.bytes, s.busMoves ++ x.busMoves, s.clockMoves ++ x.clockMoves, s.rspTakes + x.rspTakes⟩
    (s.afterResets ++ rs) s.trace a s
  obtain ⟨p, u, y, hd, he, -⟩ := answered_cases ht a s
  rw [he] at h ⊢
  exact h

theorem delayOver_withMore {i : Instr} {t : Table} (ht : tableOf i = some t) (s : State) :
    t.delayOver (withMore x rs s) = withMore x rs (t.delayOver s) := by
  have h := delayOver_inputs ht
    ⟨s.bytes ++ x.bytes, s.busMoves ++ x.busMoves, s.clockMoves ++ x.clockMoves, s.rspTakes + x.rspTakes⟩
    (s.afterResets ++ rs) s.trace s
  obtain ⟨p, u, he, -⟩ := delayOver_cases ht s
  rw [he] at h ⊢
  exact h

theorem react_withMore (a : Answer) (s : State) : react a (withMore x rs s) = withMore x rs (react a s) := by
  cases hb : s.busy with
  | false => rw [react_idle a hb, react_idle (s := withMore x rs s) a hb]
  | true =>
    cases ht : tableOf s.op with
    | some t => rw [react_running a hb ht, react_running (s := withMore x rs s) a hb ht, answered_withMore x rs ht]
    | none => simp [react, hb, ht, withMore]

theorem accept_withMore (m : Mode) (i : Instr) (s : State) :
    accept m i (withMore x rs s) = withMore x rs (accept m i s) := by
  by_cases h : s.mode = m
  · rw [accept_admitted h, accept_admitted (s := withMore x rs s) h]
    rfl
  · rw [accept_refused h, accept_refused (s := withMore x rs s) h]
    rfl

/-- A standing request waits once the moves have taken it as far as they go; or it is taken the same with more behind,
and its answer is there to come. -/
theorem takeRequest_withMore {s : State} (hp : s.pend ≠ none) (hw : (takeRequest s).waits = false) :
    takeRequest (withMore x rs s) = withMore x rs (takeRequest s) ∧
      ((∃ f, (takeRequest s).pend = some (.write f .taken)) ∨ (∃ n, (takeRequest s).pend = some (.delay n .taken)) ∨
        ∃ r, (takeRequest s).pend = some (.response r)) := by
  rcases hq : s.pend with _ | ⟨f, _ | _⟩ | ⟨n, _ | _⟩ | r
  case none => exact absurd hq hp
  case some.write.offered =>
    cases hl : afterReady s.busMoves with
    | none => simp [takeRequest, hq, hl, State.waits] at hw
    | some l => simp [takeRequest, withMore, hq, hl, afterReady_append hl]
  case some.delay.offered =>
    cases hl : afterReady s.clockMoves with
    | none => simp [takeRequest, hq, hl, State.waits] at hw
    | some l => simp [takeRequest, withMore, hq, hl, afterReady_append hl]
  all_goals simp [takeRequest, withMore, hq]

/-- A standing request waits, or it is answered the same with more inputs behind. -/
theorem settle_withMore {i : Instr} {t : Table} (ht : tableOf i = some t) {s : State} (hp : s.pend ≠ none) :
    (takeRequest s).waits = true ∨
    (∃ u, settle t s = .goesOn u ∧ settle t (withMore x rs s) = .goesOn (withMore x rs u)) ∨
    (∃ u, settle t s = .ended u ∧ settle t (withMore x rs s) = .ended (withMore x rs u)) := by
  cases hw : (takeRequest s).waits with
  | true => exact .inl rfl
  | false =>
    refine .inr ?_
    obtain ⟨he, hq⟩ := takeRequest_withMore x rs hp hw
    unfold settle
    rw [he]
    generalize takeRequest s = s1 at hw hq ⊢
    have hq' : (withMore x rs s1).pend = s1.pend := rfl
    rcases hq with ⟨f, hq⟩ | ⟨n, hq⟩ | ⟨r, hq⟩
    · cases hd : firstDone s1.busMoves with
      | none => simp [State.waits, hq, hd] at hw
      | some p =>
        have hd' : firstDone (withMore x rs s1).busMoves = some (p.1, p.2 ++ x.busMoves) := firstDone_append hd _
        simp only [hq', hq, hd, hd']
        exact .inl ⟨_, rfl, by rw [← answered_withMore x rs ht]; rfl⟩
    · cases hd : firstDone s1.clockMoves with
      | none => simp [State.waits, hq, hd] at hw
      | some p =>
        have hd' : firstDone (withMore x rs s1).clockMoves = some (p.1, p.2 ++ x.clockMoves) := firstDone_append hd _
        simp only [hq', hq, hd, hd']
        exact .inl ⟨_, rfl, by rw [← delayOver_withMore x rs ht]; rfl⟩
    · cases hr : s1.rspTakes with
      | zero => simp [State.waits, hq, hr] at hw
      | succ k =>
        have hr' : (withMore x rs s1).rspTakes = k + x.rspTakes + 1 := by simp [withMore, hr, Nat.add_right_comm]
        simp only [hq', hq, hr, hr']
        exact .inr ⟨_, rfl, rfl⟩

theorem run_withMore {i : Instr} {t : Table} (ht : tableOf i = some t) : ∀ (n : Nat) {s u : State},
    run t n s = .next u → u.waits = false → run t n (withMore x rs s) = .next (withMore x rs u) := by
  intro n
  induction n with
  | zero => intro s u h _; cases h; rfl
  | succ n ih =>
    intro s u h hw
    obtain ⟨s1, hi, hi', hp⟩ : ∃ s1, issueIfFree t s = some s1 ∧
        issueIfFree t (withMore x rs s) = some (withMore x rs s1) ∧ s1.pend ≠ none := by
      cases hp : s.pend with
      | some q =>
        exact ⟨s, issueIfFree_standing t hp, issueIfFree_standing t (s := withMore x rs s) hp, by simp [hp]⟩
      | none =>
        cases hi : t.issue s with
        | none => simp [run, issueIfFree_free t hp, hi] at h
        | some s1 =>
          refine ⟨s1, (issueIfFree_free t hp).trans hi, ?_, ?_⟩
          · rw [issueIfFree_free t (s := withMore x rs s) hp, issue_withMore x rs ht, hi, Option.map_some]
          · obtain ⟨q, m, c, rfl, -⟩ := issue_cases ht hi
            simp
    rcases settle_withMore x rs ht hp with hs | ⟨v, hs, hs'⟩ | ⟨v, hs, hs'⟩
    · rw [run_waits t n hi (settle_to_wait t hs)] at h
      cases h
      rw [hs] at hw
      cases hw
    · rw [run_goesOn t n hi hs] at h
      rw [run_goesOn t n hi' hs']
      exact ih h hw
    · rw [run_ended t n hi hs] at h
      cases h
      exact run_ended t n hi' hs'

theorem answerFrame_withMore {s : State} {f : Frame} {ph : Phase} (hp : s.pend = some (.write f ph))
    (hw : (answerFrame f s).waits = false) : answerFrame f (withMore x rs s) = withMore x rs (answerFrame f s) := by
  have hw1 : (takeRequest s).waits = false := by
    cases h : (takeRequest s).waits with
    | false => rfl
    | true => rw [answerFrame_to_wait f h, h] at hw; cases hw
  obtain ⟨he, -⟩ := takeRequest_withMore x rs (by simp [hp]) hw1
  unfold answerFrame
  rw [he]
  generalize takeRequest s = s1 at hw1 ⊢
  have htaken : (withMore x rs s1).writeTaken = s1.writeTaken := rfl
  simp only [htaken]
  split
  · rename_i ht
    cases hd : firstDone s1.busMoves with
    | none =>
      rcases hq : s1.pend with _ | ⟨g, _ | _⟩ | ⟨n, ph⟩ | r <;> simp_all [State.waits, State.writeTaken]
    | some p =>
      have hd' : firstDone (withMore x rs s1).busMoves = some (p.1, p.2 ++ x.busMoves) := firstDone_append hd _
      simp only [hd']
      rw [← react_withMore]
      rfl
  · rfl

theorem transact_withMore {s : State} {f : Frame} (hw : (transact f s).waits = false) :
    transact f (withMore x rs s) = withMore x rs (transact f s) := by
  by_cases hs : ∃ ph, s.pend = some (.write f ph)
  · obtain ⟨ph, hp⟩ := hs
    rw [transact_standing hp] at hw ⊢
    rw [transact_standing (s := withMore x rs s) hp]
    exact answerFrame_withMore x rs hp hw
  · by_cases hi : s.pend = none ∧ s.busy = false
    · rw [transact_idle hi.1 hi.2] at hw ⊢
      rw [transact_idle (s := withMore x rs s) hi.1 hi.2]
      exact answerFrame_withMore x rs (s := sendFrame f s) rfl hw
    · have kept : ∀ u : State, u.pend = s.pend → u.busy = s.busy → transact f u = u := by
        intro u hp hb
        rcases transact_cases f u with ⟨h, -⟩ | ⟨_, ⟨ph, -, hp'⟩ | ⟨-, hp', hb'⟩, -⟩
        · exact h
        · exact absurd ⟨ph, hp ▸ hp'⟩ hs
        · exact absurd ⟨hp ▸ hp', hb ▸ hb'⟩ hi
      rw [kept s rfl rfl, kept (withMore x rs s) rfl rfl]

end More

/-- Settles O58. -/
theorem laterInputsChangeNothing : Obligations.LaterInputsChangeNothing := by
  intro i s u x rs h hw
  by_cases hl : i.layer = .host
  · obtain ⟨t, acc, ht, he, hacc⟩ := exec_operates i hl
    have hacc' : acc (withMore x rs s) = withMore x rs (acc s) := by
      rcases hacc with ⟨m, -, rfl⟩ | ⟨-, rfl⟩
      · exact accept_withMore x rs m i s
      · rfl
    rw [he] at h ⊢
    cases hb : s.busy with
    | true =>
      by_cases ho : s.op = i
      · rw [operate_running hb ho] at h
        rw [operate_running (s := withMore x rs s) hb ho]
        exact run_withMore x rs ht _ h hw
      · simp only [operate, hb, ho, if_true, if_false, Host.Outcome.next.injEq] at h
        simp [operate, withMore, hb, ho, ← h]
    | false =>
      cases hp : s.pend with
      | none =>
        rw [operate_idle hb hp] at h
        rw [operate_idle (s := withMore x rs s) hb hp, hacc']
        exact run_withMore x rs ht _ h hw
      | some q =>
        simp only [operate, hb, hp, Option.isSome_some, Bool.false_eq_true, if_true, if_false,
          Host.Outcome.next.injEq] at h
        simp [operate, withMore, hb, hp, ← h]
  · obtain ⟨f, hf⟩ := frameOf_of_layer hl s
    have hf' : frameOf (withMore x rs s) i = some f := by rw [← hf]; cases i <;> rfl
    rw [exec_of_frameOf hf] at h
    cases h
    rw [exec_of_frameOf hf', transact_withMore x rs hw]

end Sys2Proof.Machine
end

section
/-! OperationsRunToResponseOrWait and NothingHangsWithInputsThere: how many writes and delays a running operation has
left, which every answer makes fewer, so that R148's bounds suffice. -/

namespace Sys2Proof.Machine

open Sys2Proof.Expect

/-! ## The writes and the delays that are left -/

/-- The rows that send a frame (R86, R100, R101, R105, R106, R120); WRITE_STR's is counted by its string. -/
def writeRows : Instr → List Nat
  | .init => [1, 3, 5, 6, 7, 9, 10, 11, 12]
  | .setRgb _ _ _ => [0, 1, 2]
  | .clear | .setDisplay _ | .setCursor _ | .setBlink _ | .setCursorPosition _ _ | .writeChar _ => [0]
  | .writeStr _ | .illegal _ => []
  | .lcdClear | .lcdEntryMode | .lcdControl _ _ _ | .lcdFunctionSet | .lcdSetDdram _ | .lcdData _ => []
  | .rgbMode1 | .rgbLedout | .rgbMode2 | .rgbRed _ | .rgbGreen _ | .rgbBlue _ => []

/-- The rows that ask for a delay (R86, R100). -/
def delayRows : Instr → List Nat
  | .init => [0, 2, 4, 8]
  | .clear => [1]
  | .setDisplay _ | .setCursor _ | .setBlink _ | .setCursorPosition _ _ | .writeChar _ | .writeStr _
  | .setRgb _ _ _ | .illegal _ => []
  | .lcdClear | .lcdEntryMode | .lcdControl _ _ _ | .lcdFunctionSet | .lcdSetDdram _ | .lcdData _ => []
  | .rgbMode1 | .rgbLedout | .rgbMode2 | .rgbRed _ | .rgbGreen _ | .rgbBlue _ => []

/-- How many of the rows come at `u` or after it. -/
def rowsFrom (u : Nat) (rows : List Nat) : Nat := (rows.filter (u ≤ ·)).length

/-- How many writes the operation `i` makes at most from `upc` and `sidx` on. -/
def writesFrom (i : Instr) (upc sidx : Nat) : Nat :=
  match i with
  | .writeStr str => str.length - sidx
  | i => rowsFrom upc (writeRows i)

/-- No write or delay follows a response. -/
def State.answering (s : State) : Bool :=
  match s.pend with
  | some (.response _) => true
  | _ => false

/-- How many writes the running operation has left at most, the one that stands included. -/
def State.writesLeft (s : State) : Nat := if s.answering then 0 else writesFrom s.op s.upc s.sidx

/-- The same of its delays. -/
def State.delaysLeft (s : State) : Nat := if s.answering then 0 else rowsFrom s.upc (delayRows s.op)

theorem rowsFrom_succ (u : Nat) (rows : List Nat) : rowsFrom u rows = rowsFrom (u + 1) rows + rows.count u := by
  induction rows with
  | nil => rfl
  | cons k rows ih =>
    simp only [rowsFrom, List.filter_cons, List.count_cons] at ih ⊢
    rcases Nat.lt_trichotomy u k with h | rfl | h
    · simp [Nat.succ_le_of_lt h, h.le, h.ne', ih]; omega
    · simp [ih]; omega
    · simp [Nat.not_le.2 h, Nat.not_le.2 (Nat.lt_succ_of_lt h), h.ne, ih]

theorem rowsFrom_succ_le (u : Nat) (rows : List Nat) : rowsFrom (u + 1) rows ≤ rowsFrom u rows := by
  rw [rowsFrom_succ u]
  exact Nat.le_add_right _ _

/-- A row that is gone through is one less. -/
theorem rowsFrom_succ_lt {u : Nat} {rows : List Nat} (h : u ∈ rows) : rowsFrom (u + 1) rows < rowsFrom u rows := by
  rw [rowsFrom_succ u]
  exact Nat.lt_add_of_pos_right (List.count_pos_iff.2 h)

theorem rowsFrom_le (u : Nat) (rows : List Nat) : rowsFrom u rows ≤ rows.length := List.length_filter_le _ _

theorem writesFrom_le (i : Instr) (u x : Nat) (hl : i.layer = .host) : writesFrom i u x ≤ mostWrites i := by
  cases i with
  | writeStr str => exact Nat.sub_le _ _
  | init | clear | setDisplay | setCursor | setBlink | setCursorPosition | writeChar | setRgb | illegal =>
    exact rowsFrom_le _ _
  | _ => cases hl

theorem delayRows_le (i : Instr) (u : Nat) : rowsFrom u (delayRows i) ≤ mostDelays i := by
  refine (rowsFrom_le _ _).trans ?_
  cases i <;> simp [delayRows, mostDelays]

theorem State.writesLeft_le {s : State} (hl : s.op.layer = .host) : s.writesLeft ≤ mostWrites s.op := by
  unfold State.writesLeft
  split
  · exact Nat.zero_le _
  · exact writesFrom_le _ _ _ hl

theorem State.delaysLeft_le (s : State) : s.delaysLeft ≤ mostDelays s.op := by
  unfold State.delaysLeft
  split
  · exact Nat.zero_le _
  · exact delayRows_le _ _

/-- R148's bound is R134's writes and the table's delays, and one for the response. -/
theorem microSteps_eq {i : Instr} (hl : i.layer = .host) : microSteps i = mostWrites i + mostDelays i + 1 := by
  cases i <;> first | rfl | cases hl

theorem not_answering {s : State} (h : ∀ r, s.pend ≠ some (.response r)) : s.answering = false := by
  rcases hp : s.pend with _ | ⟨f, ph⟩ | ⟨n, ph⟩ | r <;> simp_all [State.answering]

theorem answering_response {s : State} {r : Response} (h : s.pend = some (.response r)) : s.answering = true := by
  simp [State.answering, h]

theorem writesLeft_of_response {s : State} {r : Response} (h : s.pend = some (.response r)) : s.writesLeft = 0 := by
  simp [State.writesLeft, answering_response h]

theorem delaysLeft_of_response {s : State} {r : Response} (h : s.pend = some (.response r)) : s.delaysLeft = 0 := by
  simp [State.delaysLeft, answering_response h]

theorem writesLeft_of_other {s : State} (h : ∀ r, s.pend ≠ some (.response r)) :
    s.writesLeft = writesFrom s.op s.upc s.sidx := by
  simp [State.writesLeft, not_answering h]

theorem delaysLeft_of_other {s : State} (h : ∀ r, s.pend ≠ some (.response r)) :
    s.delaysLeft = rowsFrom s.upc (delayRows s.op) := by
  simp [State.delaysLeft, not_answering h]

/-- A row that sends a frame is counted with the writes, one that asks for a delay with the delays. -/
theorem row_counted {s : State} {i : Instr} {q : Request} {m : Mode} {c : BitVec 3} (h : Row s i q m c) :
    (∃ f, q = .write f .offered ∧
      (s.upc ∈ writeRows i ∨ ∃ str, i = .writeStr str ∧ s.sidx < str.length)) ∨
    (∃ n, q = .delay n .offered ∧ s.upc ∈ delayRows i) ∨
    ∃ r, q = .response r := by
  cases h with
  | strByte str c hc hu => exact .inl ⟨_, rfl, .inr ⟨str, rfl, (List.getElem?_eq_some_iff.1 hc).1⟩⟩
  | flag f n hi hu => subst hi; cases f <;> exact .inl ⟨_, rfl, .inl (by simp [flagOperation, writeRows, hu])⟩
  | initFunctionSet hu => exact .inl ⟨_, rfl, .inl (by rcases hu with hu | hu | hu <;> simp [writeRows, hu])⟩
  | initFunctionSetDelay hu =>
    exact .inr (.inl ⟨_, rfl, by rcases hu with hu | hu <;> simp [delayRows, hu]⟩)
  | initPowerOn | initClearDelay | clearDelay => exact .inr (.inl ⟨_, rfl, by simp [delayRows, *]⟩)
  | initOk | clearStatus | oneWriteOk | strOk | rgbOk | illegal => exact .inr (.inr ⟨_, rfl⟩)
  | _ => exact .inl ⟨_, rfl, .inl (by simp [writeRows, *])⟩

theorem writesFrom_succ_le {i : Instr} (hi : ∀ str, i ≠ .writeStr str) (u x : Nat) :
    writesFrom i (u + 1) x ≤ writesFrom i u x := by
  cases i with
  | writeStr str => exact absurd rfl (hi str)
  | _ => exact rowsFrom_succ_le _ _

theorem writesFrom_succ_lt {i : Instr} {u : Nat} (hu : u ∈ writeRows i) (x : Nat) :
    writesFrom i (u + 1) x < writesFrom i u x := by
  cases i with
  | writeStr str => cases hu
  | _ => exact rowsFrom_succ_lt hu

/-- An answer makes the writes fewer, and the delays no more. -/
theorem State.Running.answered_left {s : State} {t : Table} {f : Frame} {ph : Phase} (h : s.Running)
    (ht : tableOf s.op = some t) (hp : s.pend = some (.write f ph)) (a : Answer) (m : List BusMove) :
    (t.answered a (answerWrite f a m s)).writesLeft < s.writesLeft ∧
      (t.answered a (answerWrite f a m s)).delaysLeft ≤ s.delaysLeft := by
  obtain ⟨-, ⟨mode, ctrl, hr⟩, -⟩ := h.standing hp (by simp)
  have hrow : s.upc ∈ writeRows s.op ∨ ∃ str, s.op = .writeStr str ∧ s.sidx < str.length := by
    rcases row_counted hr with ⟨_, -, h⟩ | ⟨_, hq, -⟩ | ⟨_, hq⟩
    · exact h
    · cases hq
    · cases hq
  have hother : ∀ r, s.pend ≠ some (.response r) := by simp [hp]
  rw [writesLeft_of_other hother, delaysLeft_of_other hother]
  rcases answered_ways ht a (answerWrite f a m s) with ⟨e, he⟩ | ⟨str, ho, he⟩ | ⟨hstr, x, he⟩ <;> rw [he]
  · rw [writesLeft_of_response rfl, delaysLeft_of_response rfl]
    refine ⟨?_, Nat.zero_le _⟩
    rcases hrow with hu | ⟨str, ho, hx⟩
    · exact Nat.zero_lt_of_lt (writesFrom_succ_lt hu s.sidx)
    · simp only [writesFrom, ho]; omega
  · rw [writesLeft_of_other (by simp), delaysLeft_of_other (by simp)]
    obtain hu | ⟨str', ho', hx⟩ := hrow
    · simp [ho, writeRows] at hu
    · simp only [nextSidx_op, answerWrite_op, nextSidx_sidx, answerWrite_sidx, nextSidx_upc, answerWrite_upc, ho',
        writesFrom, le_refl, and_true]
      omega
  · rw [writesLeft_of_other (by simp), delaysLeft_of_other (by simp)]
    obtain hu | ⟨str, ho, -⟩ := hrow
    · exact ⟨writesFrom_succ_lt hu s.sidx, rowsFrom_succ_le _ _⟩
    · exact absurd ho (hstr str)

/-- The end of a delay makes the delays fewer, and the writes no more. -/
theorem State.Running.delayOver_left {s : State} {t : Table} {n : Millis} {ph : Phase} (h : s.Running)
    (ht : tableOf s.op = some t) (hp : s.pend = some (.delay n ph)) (m : List ClockMove) :
    (t.delayOver (endDelay n m s)).writesLeft ≤ s.writesLeft ∧
      (t.delayOver (endDelay n m s)).delaysLeft < s.delaysLeft := by
  obtain ⟨-, ⟨mode, ctrl, hr⟩, -⟩ := h.standing hp (by simp)
  have hrow : s.upc ∈ delayRows s.op := by
    rcases row_counted hr with ⟨_, hq, -⟩ | ⟨_, -, h⟩ | ⟨_, hq⟩
    · cases hq
    · exact h
    · cases hq
  have hstr : ∀ str, s.op ≠ .writeStr str := by
    intro str ho
    simp [ho, delayRows] at hrow
  have hother : ∀ r, s.pend ≠ some (.response r) := by simp [hp]
  rw [writesLeft_of_other hother, delaysLeft_of_other hother]
  rcases delayOver_ways ht (endDelay n m s) with ⟨e, he⟩ | he <;> rw [he]
  · rw [writesLeft_of_response rfl, delaysLeft_of_response rfl]
    exact ⟨Nat.zero_le _, Nat.zero_lt_of_lt (rowsFrom_succ_lt hrow)⟩
  · rw [writesLeft_of_other (by simp), delaysLeft_of_other (by simp)]
    exact ⟨writesFrom_succ_le hstr _ _, rowsFrom_succ_lt hrow⟩

/-! ## A running operation, from one state to another -/

/-- The operation that runs in `s` runs in `u` still, by the writes and delays `evs`, of which it had so many left. -/
structure RunsOn (s u : State) (evs : List Event) : Prop where
  running : u.Running
  op : u.op = s.op
  spent : Spent s u evs
  quiet : Quiet evs
  writes : (answersOf evs).length + u.writesLeft ≤ s.writesLeft
  delays : delaysOf evs + u.delaysLeft ≤ s.delaysLeft

/-- The operation that runs in `s` has ended in `u`, by writes and delays, of which it had so many left, and its one
response. -/
structure Ends (s u : State) (evs : List Event) (r : Response) : Prop where
  inv : u.Inv
  idle : u.idle
  spent : Spent s u (evs ++ [.rsp r])
  quiet : Quiet evs
  writes : (answersOf evs).length ≤ s.writesLeft
  delays : delaysOf evs ≤ s.delaysLeft
  status : r = .illegalCommand ↔ requiredMode s.op = none

theorem RunsOn.trans {s u v : State} {es fs : List Event} (h : RunsOn s u es) (h' : RunsOn u v fs) :
    RunsOn s v (es ++ fs) where
  running := h'.running
  op := h'.op.trans h.op
  spent := h.spent.trans h'.spent
  quiet := h.quiet.append h'.quiet
  writes := by have := h.writes; have := h'.writes; simp only [answersOf_append, List.length_append]; omega
  delays := by have := h.delays; have := h'.delays; simp only [delaysOf_append]; omega

theorem RunsOn.ends {s u v : State} {es fs : List Event} {r : Response} (h : RunsOn s u es) (h' : Ends u v fs r) :
    Ends s v (es ++ fs) r where
  inv := h'.inv
  idle := h'.idle
  spent := by rw [List.append_assoc]; exact h.spent.trans h'.spent
  quiet := h.quiet.append h'.quiet
  writes := by have := h.writes; have := h'.writes; simp only [answersOf_append, List.length_append]; omega
  delays := by have := h.delays; have := h'.delays; simp only [delaysOf_append]; omega
  status := by rw [h'.status, h.op]

theorem State.Running.runsOn_refl {s : State} (h : s.Running) : RunsOn s s [] :=
  ⟨h, rfl, .refl s, quiet_nil, by simp [answersOf], by simp [delaysOf]⟩

theorem State.Running.runsOn_issue {s s1 : State} {t : Table} (h : s.Running) (ht : tableOf s.op = some t)
    (hp : s.pend = none) (hi : t.issue s = some s1) : RunsOn s s1 [] := by
  have hrun := h.issue ht hp hi
  obtain ⟨q, m, c, rfl, hq, -⟩ := issue_cases ht hi
  have hother : ∀ r, s.pend ≠ some (.response r) := by simp [hp]
  refine ⟨hrun, rfl, spent_issue hp hq m c, quiet_nil, ?_, ?_⟩
  · rw [writesLeft_of_other hother]
    simp only [answersOf, List.length_nil, Nat.zero_add, State.writesLeft]
    split
    · exact Nat.zero_le _
    · exact le_rfl
  · rw [delaysLeft_of_other hother]
    simp only [delaysOf, Nat.zero_add, State.delaysLeft]
    split
    · exact Nat.zero_le _
    · exact le_rfl

theorem State.Running.runsOn_taken {s : State} (h : s.Running) : RunsOn s (takeRequest s) [] := by
  have ha : (takeRequest s).answering = s.answering := by
    rcases takeRequest_cases s with he | ⟨f, l, hp, -, he⟩ | ⟨n, l, hp, -, he⟩ <;> rw [he]
    · simp [State.answering, hp]
    · simp [State.answering, hp]
  refine ⟨h.taken, takeRequest_op s, spent_takeRequest s, quiet_nil, ?_, ?_⟩
  · simp [answersOf, State.writesLeft, ha]
  · simp [delaysOf, State.delaysLeft, ha]

theorem State.Running.runsOn_answered {s : State} {t : Table} {f : Frame} {ph : Phase} {a : Answer} {m : List BusMove}
    (h : s.Running) (ht : tableOf s.op = some t) (hp : s.pend = some (.write f ph))
    (ha : s.busAnswers = a :: answersAhead false m) : RunsOn s (t.answered a (answerWrite f a m s)) [.write f a] := by
  obtain ⟨hw, hd⟩ := h.answered_left ht hp a m
  refine ⟨h.answered ht hp a m, ?_, spent_answered ht hp ha, quiet_write f a, ?_, ?_⟩
  · obtain ⟨_, _, _, _, he, -⟩ := answered_cases ht a (answerWrite f a m s)
    rw [he]
    rfl
  · simp only [answersOf, List.length_cons, List.length_nil]
    omega
  · simpa [delaysOf] using hd

theorem State.Running.runsOn_delayOver {s : State} {t : Table} {n : Millis} {ph : Phase} {m : List ClockMove}
    (h : s.Running) (ht : tableOf s.op = some t) (hp : s.pend = some (.delay n ph))
    (hd : s.delayEnds = (answersAhead false m).length + 1) : RunsOn s (t.delayOver (endDelay n m s)) [.delay n] := by
  obtain ⟨hw, hl⟩ := h.delayOver_left ht hp m
  refine ⟨h.delayOver ht hp m, ?_, spent_delayOver ht hp hd, quiet_delay n, ?_, ?_⟩
  · obtain ⟨_, _, he, -⟩ := delayOver_cases ht (endDelay n m s)
    rw [he]
    rfl
  · simpa [answersOf] using hw
  · simp only [delaysOf]
    omega

/-- ILLEGAL_COMMAND is the status of an illegal byte, and of nothing else (R133, R138). -/
theorem responseFits_illegal {r : Response} {s : State} (h : responseFits r s = true) :
    r = .illegalCommand ↔ requiredMode s.op = none := by
  cases r <;> simp_all [responseFits]

theorem State.Running.ends_given {s : State} {r : Response} {later : Nat} (h : s.Running)
    (hp : s.pend = some (.response r)) (hr : s.rspTakes = later + 1) :
    Ends s (giveResponse r { s with rspTakes := later }) [] r := by
  refine ⟨h.given r later, ⟨rfl, rfl⟩, spent_response hp hr, quiet_nil, Nat.zero_le _, Nat.zero_le _, ?_⟩
  rcases h.placed with ⟨r', hr', hf⟩ | ⟨hn, -⟩
  · cases hp.symm.trans hr'
    exact responseFits_illegal hf
  · exact absurd hp (hn r)

/-- With micro-steps enough for the writes and delays that are left, a running operation runs until its request waits or
its response is given. -/
theorem State.Running.run_ways {t : Table} : ∀ (n : Nat) {s : State}, s.Running → tableOf s.op = some t →
    s.writesLeft + s.delaysLeft < n → ∃ u, Machine.run t n s = .next u ∧
      ((∃ evs, RunsOn s u evs ∧ u.waits = true) ∨ ∃ evs r, Ends s u evs r) := by
  intro n
  induction n with
  | zero => exact fun _ _ h => absurd h (Nat.not_lt_zero _)
  | succ n ih =>
    intro s h ht hn
    obtain ⟨s1, hi, h1, hpend⟩ : ∃ s1, issueIfFree t s = some s1 ∧ RunsOn s s1 [] ∧ s1.pend ≠ none := by
      cases hp : s.pend with
      | some q => exact ⟨s, issueIfFree_standing t hp, h.runsOn_refl, by simp [hp]⟩
      | none =>
        obtain ⟨s1, hi⟩ := h.issues ht hp
        refine ⟨s1, (issueIfFree_free t hp).trans hi, h.runsOn_issue ht hp hi, ?_⟩
        obtain ⟨_, _, _, rfl, -⟩ := issue_cases ht hi
        simp
    have ht1 : tableOf s1.op = some t := by rw [h1.op, ht]
    -- an answer or the end of a delay leaves less, so the rest of the micro-steps is enough
    have goes_on : ∀ {u evs}, settle t s1 = .goesOn u → RunsOn s1 u evs → 0 < (answersOf evs).length + delaysOf evs →
        ∃ v, Machine.run t (n + 1) s = .next v ∧
          ((∃ evs, RunsOn s v evs ∧ v.waits = true) ∨ ∃ evs r, Ends s v evs r) := by
      intro u evs hs hu hpos
      have hsu := h1.trans hu
      have hw := hsu.writes
      have hd := hsu.delays
      simp only [List.nil_append] at hw hd
      obtain ⟨v, hv, hways⟩ := ih hu.running (by rw [hu.op, ht1]) (by omega)
      refine ⟨v, (run_goesOn t n hi hs).trans hv, hways.imp ?_ ?_⟩
      · exact fun ⟨_, hv, hw⟩ => ⟨_, hsu.trans hv, hw⟩
      · exact fun ⟨_, r, hv⟩ => ⟨_, r, hsu.ends hv⟩
    rcases settle_cases t s1 with ⟨hs, hw⟩ | ⟨f, ph, a, m, hp, ha, hs⟩ | ⟨d, ph, m, hp, hd, hs⟩ | ⟨r, later, hp, hr, hs⟩
    · exact ⟨_, run_waits t n hi hs, .inl ⟨_, h1.trans h1.running.runsOn_taken, hw.resolve_left hpend⟩⟩
    · exact goes_on hs (h1.running.runsOn_answered ht1 hp ha) (by simp [answersOf])
    · exact goes_on hs (h1.running.runsOn_delayOver ht1 hp hd) (by simp [delaysOf])
    · exact ⟨_, run_ended t n hi hs, .inr ⟨_, r, h1.ends (h1.running.ends_given hp hr)⟩⟩

/-- The same with R148's number of micro-steps. -/
theorem State.Running.run_bound {s : State} {t : Table} (h : s.Running) (ht : tableOf s.op = some t) :
    ∃ u, Machine.run t (microSteps s.op) s = .next u ∧
      ((∃ evs, RunsOn s u evs ∧ u.waits = true) ∨ ∃ evs r, Ends s u evs r) := by
  refine h.run_ways _ ht ?_
  have hw := State.writesLeft_le h.host
  have hd := s.delaysLeft_le
  rw [microSteps_eq h.host]
  omega

/-- The meaning of the running operation runs it until its request waits or its response is given. -/
theorem State.Running.exec_ways {s : State} (h : s.Running) :
    ∃ u, exec s.op s = .next u ∧ ((∃ evs, RunsOn s u evs ∧ u.waits = true) ∨ ∃ evs r, Ends s u evs r) := by
  obtain ⟨t, ht, he⟩ := exec_run h.host h.busy
  rw [he]
  exact h.run_bound ht

/-! ## From acceptance -/

/-- The event that acceptance makes: `Op`, of an operation. -/
def acceptance (i : Instr) : List Event := if isOperation i then [.op i] else []

theorem acceptance_takes_nothing (i : Instr) :
    answersOf (acceptance i) = [] ∧ delaysOf (acceptance i) = 0 ∧ responsesOf (acceptance i) = 0 := by
  unfold acceptance
  split <;> exact ⟨rfl, rfl, rfl⟩

/-- A well-formed host instruction that an idle block accepts runs, after the event `Op` if it is an operation. -/
theorem exec_accepts {i : Instr} {s : State} (hl : i.layer = .host) (hw : i.wf = true)
    (hsf : s.showFunction = Config.showFunction) (hpk : s.pkt = []) (hs : s.idle) :
    ∃ s1 t, exec i s = run t (microSteps i) s1 ∧ tableOf s1.op = some t ∧ s1.op = i ∧ s1.Running ∧
      Spent s s1 (acceptance i) := by
  obtain ⟨hb, hp⟩ := hs
  obtain ⟨t, acc, ht, he, hacc⟩ := exec_operates i hl
  rw [he, operate_idle hb hp]
  rcases hacc with ⟨m, hm, rfl⟩ | ⟨hm, rfl⟩
  · have hevs : acceptance i = [.op i] := if_pos (by rw [← isSome_requiredMode, hm]; rfl)
    have hspent := spent_accept m i hp
    obtain ⟨p, ha, hmp⟩ := accept_cases m i s
    rw [ha] at hspent ⊢
    refine ⟨_, t, rfl, ht, rfl, ⟨hsf, rfl, hw, hl, hpk, by simp, by simp, ?_⟩, hevs ▸ hspent⟩
    rcases hmp with ⟨hm', rfl⟩ | ⟨hm', rfl⟩
    · refine .inr ⟨by simp [hp], ?_, by simpa [hm'] using hm, by simp [State.initCtrl, hp], ?_⟩
      · obtain ⟨q, x, c, hr⟩ := row_of_le ht
          (s := { latch i s with trace := s.trace ++ [.op i], pend := s.pend }) (by simp)
        exact ⟨q, x, c, hr, .inl hp⟩
      · cases i <;> simp [State.withinString]
    · exact .inl ⟨_, rfl, by simp [responseFits, hm, Ne.symm hm']⟩
  · have hevs : acceptance i = [] := if_neg (by rw [← isSome_requiredMode, hm]; simp)
    refine ⟨_, t, rfl, ht, rfl, ⟨hsf, rfl, hw, hl, hpk, by simp [acceptIllegal], by simp [acceptIllegal],
      .inl ⟨_, rfl, ?_⟩⟩, hevs ▸ spent_acceptIllegal i hp⟩
    simp [responseFits, acceptIllegal, hm]

theorem State.Inv.showFunction {s : State} (h : s.Inv) : s.showFunction = Config.showFunction :=
  (inv_iff.1 h).elim (·.showFunction) (·.1)

/-- An idle block that meets the invariant has nothing at its ports (R155). -/
theorem State.Inv.idle {s : State} (h : s.Inv) (hb : s.busy = false) : s.idle := by
  refine ⟨hb, ?_⟩
  rcases inv_iff.1 h with hr | ⟨-, -, -, -, hp⟩
  · cases hb.symm.trans hr.busy
  · exact hp

/-- Settles O51: begun or taken up, the operation runs with R148's bound. -/
theorem operationsRunToResponseOrWait : Obligations.OperationsRunToResponseOrWait := by
  intro i s hl hw hs hpk hi
  have ways : ∀ {s1 u : State}, ((∃ evs, RunsOn s1 u evs ∧ u.waits = true) ∨ ∃ evs r, Ends s1 u evs r) →
      u.Inv ∧ (u.busy = false ∨ u.waits = true) := by
    rintro s1 u (⟨evs, hu, hw⟩ | ⟨evs, r, hu⟩)
    · exact ⟨inv_iff.2 (.inl hu.running), .inr hw⟩
    · exact ⟨hu.inv, .inl hu.idle.1⟩
  cases hb : s.busy with
  | false =>
    obtain ⟨s1, t, he, ht, rfl, h1, -⟩ := exec_accepts hl hw hs.showFunction hpk (hs.idle hb)
    obtain ⟨u, hu, h⟩ := h1.run_bound ht
    exact ⟨u, he.trans hu, ways h⟩
  | true =>
    obtain rfl : s.op = i := hi.resolve_left (by simp [hb])
    obtain ⟨u, hu, h⟩ := (hs.running hb).exec_ways
    exact ⟨u, hu, ways h⟩

/-! ## What the block does while an operation runs -/

/-- A standing write is taken and waits, or it is answered, and the operation runs on with no write standing. -/
theorem State.Running.goOn_write_ways {s : State} {f : Frame} {ph : Phase} (h : s.Running)
    (hp : s.pend = some (.write f ph)) :
    ∃ u evs, goOn s = .next u ∧ RunsOn s u evs ∧ (u.waits = true ∨ (evs ≠ [] ∧ ∀ g ph, u.pend ≠ some (.write g ph))) := by
  obtain ⟨i, hi⟩ := h.frame hp
  refine ⟨answerFrame f s, ?_⟩
  rw [goOn_write hp hi]
  rcases answerFrame_cases hp with ⟨-, he, hw⟩ | ⟨a, m, ha, he⟩ <;> rw [he]
  · exact ⟨_, rfl, h.runsOn_taken, .inl hw⟩
  · obtain ⟨t, ht⟩ := tableOf_host h.host
    rw [react_running (s := answerWrite f a m s) a h.busy ht]
    refine ⟨_, rfl, h.runsOn_answered ht hp ha, .inr ⟨by simp, ?_⟩⟩
    obtain ⟨p, u, x, hd, he, hp'⟩ := answered_cases ht a (answerWrite f a m s)
    rw [he]
    rcases hp' with rfl | ⟨e, -, rfl⟩ <;> simp

/-- Else the operation is taken up and runs until its request waits or its response is given. -/
theorem State.Running.goOn_other_ways {s : State} (h : s.Running) (hp : ∀ f ph, s.pend ≠ some (.write f ph)) :
    ∃ u, goOn s = .next u ∧ ((∃ evs, RunsOn s u evs ∧ u.waits = true) ∨ ∃ evs r, Ends s u evs r) := by
  rw [goOn_resumes (.inl h.busy) hp]
  exact h.exec_ways

/-- A step of a block that is not stalled and runs an operation makes an event, or leaves a request that waits. -/
theorem State.Running.goOn_changes {s t : State} (h : s.Running) (hst : s.stalled = false) (hg : goOn s = .next t) :
    t ≠ s := by
  have of_waits : t.waits = true → t ≠ s := by
    rintro hw rfl
    rw [stalled_of_waits hw] at hst
    cases hst
  by_cases hp : ∃ f ph, s.pend = some (.write f ph)
  · obtain ⟨f, ph, hp⟩ := hp
    obtain ⟨u, evs, hu, hrun, hways⟩ := h.goOn_write_ways hp
    cases hu.symm.trans hg
    rcases hways with hw | ⟨hne, -⟩
    · exact of_waits hw
    · rintro rfl
      exact hne (by simpa using hrun.spent.trace)
  · obtain ⟨u, hu, hways⟩ := h.goOn_other_ways fun f ph hq => hp ⟨f, ph, hq⟩
    cases hu.symm.trans hg
    rcases hways with ⟨_, -, hw⟩ | ⟨_, _, hends⟩
    · exact of_waits hw
    · rintro rfl
      cases h.busy.symm.trans hends.idle.1

/-- Settles O52: an idle block takes a byte, and a running operation makes an event or comes to wait. -/
theorem nothingHangsWithInputsThere : Obligations.NothingHangsWithInputsThere := by
  intro s t hs hst h
  rw [step_goOn (by simp [State.resetComes, hst])] at h
  cases hb : s.busy with
  | true => exact (hs.running hb).goOn_changes hst h
  | false =>
    have hidle := hs.idle hb
    cases hbytes : s.bytes with
    | nil => simp [State.stalled, hidle.1, hidle.2, hbytes] at hst
    | cons b later =>
      have hlater : t.bytes = later := by
        cases hd : decode (s.pkt ++ [b]) with
        | error e =>
          rw [goOn_byte hidle hbytes hd] at h
          cases h
          rfl
        | ok r =>
          rw [goOn_packet hidle hbytes hd] at h
          exact (exec_untouched h).bytes
      rintro rfl
      exact List.cons_ne_self b later (hbytes.symm.trans hlater)

end Sys2Proof.Machine
end

section
/-! Packets on the host's stream: what decodes decodes whatever follows it, and what is encoded decodes to itself. -/

namespace Sys2Proof

/-- What decodes is the front of the bytes, and decodes the same whatever follows it (R60, R63). -/
theorem decode_front {bs rest : List Byte} {i : Instr} (h : decode bs = .ok (i, rest)) :
    ∃ own, bs = own ++ rest ∧ ∀ more, decode (own ++ more) = .ok (i, more) := by
  cases bs with
  | nil => cases h
  | cons b bs =>
    simp only [decode] at h
    split at h <;> rename_i hk
    case h_7 | h_8 =>
      split at h
      · rename_i x later
        cases h
        exact ⟨[b, x], rfl, fun more => by simp [decode, hk]⟩
      · cases h
    case h_9 =>
      split at h
      · rename_i len later
        split at h
        · rename_i hlen
          cases h
          refine ⟨b :: len :: later.take len.toNat, by simp, fun more => ?_⟩
          have hl : (later.take len.toNat).length = len.toNat := by simpa using hlen
          simp only [decode, hk, List.cons_append]
          rw [if_pos (by simp [hl]), List.take_left' hl, List.drop_left' hl]
        · cases h
      · cases h
    case h_10 =>
      split at h
      · rename_i r g bl later
        cases h
        exact ⟨[b, r, g, bl], rfl, fun more => by simp [decode, hk]⟩
      · cases h
    all_goals
      cases h
      exact ⟨[b], rfl, fun more => by simp [decode, hk]⟩

/-- Bytes behind a packet stay behind it. -/
theorem decode_append {bs rest : List Byte} {i : Instr} (h : decode bs = .ok (i, rest)) (more : List Byte) :
    decode (bs ++ more) = .ok (i, rest ++ more) := by
  obtain ⟨own, rfl, ho⟩ := decode_front h
  rw [List.append_assoc, ho]

/-- A byte that makes a packet whole is its last. -/
theorem decode_last_byte {bs rest : List Byte} {b : Byte} {e : DecodeError} {i : Instr} (he : decode bs = .error e)
    (h : decode (bs ++ [b]) = .ok (i, rest)) : rest = [] := by
  obtain ⟨own, ho, hd⟩ := decode_front h
  rcases List.eq_nil_or_concat rest with hr | ⟨rest', b', hr⟩
  · exact hr
  · rw [List.concat_eq_append] at hr
    subst hr
    rw [← List.append_assoc] at ho
    rw [(List.append_inj' ho rfl).1, hd] at he
    cases he

/-- A byte of R64's list is no opcode of R61. -/
theorem opKindOf_of_illegalByte0 : ∀ b : Byte, illegalByte0 b = true → opKindOf b = none := by decide +kernel

/-- The bytes of a well-formed host instruction decode to it (R60 to R64). -/
theorem decode_encode {i : Instr} (hl : i.layer = .host) (hw : i.wf = true) : decode (encode i) = .ok (i, []) := by
  obtain ⟨hinit, hclear, hchar, hstr, hrgb⟩ := opKindOf_fixed
  cases i with
  | init => simp [encode, decode, hinit]
  | clear => simp [encode, decode, hclear]
  | setDisplay n => simp [encode, decode, opKindOf_setDisplay]
  | setCursor n => simp [encode, decode, opKindOf_setCursor]
  | setBlink n => simp [encode, decode, opKindOf_setBlink]
  | setCursorPosition col w => simp [encode, decode, opKindOf_setCursorPosition]
  | writeChar c => simp [encode, decode, hchar]
  | writeStr str =>
    simp only [Instr.wf, decide_eq_true_eq] at hw
    have hlen : (BitVec.ofNat 8 str.length).toNat = str.length := by
      rw [BitVec.toNat_ofNat]
      omega
    simp [encode, decode, hstr, hlen]
  | setRgb r g b => simp [encode, decode, hrgb]
  | illegal b => simp [encode, decode, opKindOf_of_illegalByte0 b hw]
  | _ => cases hl

/-- A part of a packet's bytes is no packet. -/
theorem decode_take_encode {i : Instr} (hl : i.layer = .host) (hw : i.wf = true) {k : Nat}
    (hk : k < (encode i).length) : ∃ e, decode ((encode i).take k) = .error e := by
  cases h : decode ((encode i).take k) with
  | error e => exact ⟨e, rfl⟩
  | ok r =>
    have hd := decode_append h ((encode i).drop k)
    rw [List.take_append_drop, decode_encode hl hw] at hd
    have hnil : (encode i).drop k = [] := (List.append_eq_nil_iff.1 (congrArg Prod.snd (Except.ok.inj hd)).symm).2
    rw [List.drop_eq_nil_iff] at hnil
    omega

end Sys2Proof

namespace Sys2Proof.Machine

open Sys2Proof.Expect

theorem run_core_one (s : State) : Host.Core.run Sys2Proof.core 1 s = step s := by
  cases h : step s with
  | next t => exact run_core_succ h 0
  | fault r =>
    have h' : Sys2Proof.core.step s = .fault r := h
    simp only [Host.Core.run, h']
    rfl
  | refused r =>
    have h' : Sys2Proof.core.step s = .refused r := h
    simp only [Host.Core.run, h']
    rfl

/-- No reset comes to an idle block while the host has a byte for it. -/
theorem resetComes_of_byte {s : State} (hs : s.idle) {b : Byte} {later : List Byte} (hb : s.bytes = b :: later) :
    s.resetComes = false := by
  simp [State.resetComes, State.stalled, hs.1, hs.2, hb]

/-- Settles O35, by induction on the bytes that are still to come. -/
theorem packetByteByByteRunsOnce : Obligations.PacketByteByByteRunsOnce := by
  intro i s k later hl hw hs hk hpkt hbytes
  obtain ⟨n, hn⟩ : ∃ n, (encode i).length - k = n + 1 := ⟨(encode i).length - k - 1, by omega⟩
  rw [hn]
  induction n generalizing s k with
  | zero =>
    have hb : s.bytes = (encode i)[k] :: later := by
      rw [hbytes, List.drop_eq_getElem_cons hk, List.drop_eq_nil_of_le (by omega), List.cons_append, List.nil_append]
    have hd : decode (s.pkt ++ [(encode i)[k]]) = .ok (i, []) := by
      rw [hpkt, List.take_concat_get', List.take_of_length_le (by omega), decode_encode hl hw]
    rw [run_core_one, step_goOn (resetComes_of_byte hs hb), goOn_packet hs hb hd]
  | succ n ih =>
    have hb : s.bytes = (encode i)[k] :: ((encode i).drop (k + 1) ++ later) := by
      rw [hbytes, List.drop_eq_getElem_cons hk, List.cons_append]
    have hp : s.pkt ++ [(encode i)[k]] = (encode i).take (k + 1) := by rw [hpkt, List.take_concat_get']
    obtain ⟨e, hd⟩ := decode_take_encode hl hw (k := k + 1) (by omega)
    have hstep : step s = .next { s with bytes := (encode i).drop (k + 1) ++ later, pkt := (encode i).take (k + 1) } := by
      rw [step_goOn (resetComes_of_byte hs hb), goOn_byte hs hb (by rw [hp]; exact hd), hp]
    rw [run_core_succ hstep]
    exact ih _ (k + 1) hs (by omega) rfl rfl (by omega)

end Sys2Proof.Machine
end

section
/-! EveryPacketGetsOneResponse: a running operation whose inputs are there comes to its response, so every packet of a
stream is answered before the next begins. -/

namespace Sys2Proof.Machine

open Sys2Proof.Expect

/-- A write that stands is one of those that are left. -/
theorem State.Running.writesLeft_pos {s : State} {f : Frame} {ph : Phase} (h : s.Running)
    (hp : s.pend = some (.write f ph)) : 0 < s.writesLeft := by
  obtain ⟨t, ht⟩ := tableOf_host h.host
  exact Nat.zero_lt_of_lt (h.answered_left ht hp .ok []).1

theorem State.Running.delaysLeft_pos {s : State} {n : Millis} {ph : Phase} (h : s.Running)
    (hp : s.pend = some (.delay n ph)) : 0 < s.delaysLeft := by
  obtain ⟨t, ht⟩ := tableOf_host h.host
  exact Nat.zero_lt_of_lt (h.delayOver_left ht hp []).2

/-- With an answer for each write that is left, an end for each delay, and a take, no request of the operation waits. -/
theorem RunsOn.not_waits {s u : State} {evs : List Event} (h : RunsOn s u evs) (hw : AnswersThere s.writesLeft s)
    (hd : EndsThere s.delaysLeft s) (ht : TakesThere 1 s) : u.waits = false := by
  obtain ⟨hrun, -, hs, ⟨-, hquiet⟩, hwrites, hdelays⟩ := h
  have hanswers := congrArg List.length hs.answers
  have hends := hs.ends
  have htakes := hs.takes
  simp only [AnswersThere, EndsThere, TakesThere, List.length_append] at hw hd ht hanswers
  cases hwait : u.waits with
  | false => rfl
  | true =>
    exfalso
    obtain ⟨q, hp⟩ := Option.ne_none_iff_exists'.1 (pend_ne_none_of_waits hwait)
    cases q with
    | write f ph =>
      have := hrun.writesLeft_pos hp
      rw [busAnswers_of_waits hp hwait, List.length_nil] at hanswers
      omega
    | delay n ph =>
      have := hrun.delaysLeft_pos hp
      rw [delayEnds_of_waits hp hwait] at hends
      omega
    | response r =>
      rw [rspTakes_of_waits hp hwait] at htakes
      omega

/-- Without acceptance, writes, delays and responses there is no event. -/
theorem eq_nil_of_no_events {evs : List Event} (hq : Quiet evs) (ha : (answersOf evs).length ≤ 0)
    (hd : delaysOf evs ≤ 0) : evs = [] := by
  obtain ⟨ho, hr⟩ := hq
  cases evs with
  | nil => rfl
  | cons e es => cases e <;> simp [opsOf, responsesOf, answersOf, delaysOf] at ho hr ha hd

/-- From acceptance to the response, an operation's events answer its packet. -/
theorem Ends.answersPacket {s u : State} {evs : List Event} {r : Response} (h : Ends s u evs r) (hs : s.Running) :
    AnswersPacket s.op (acceptance s.op ++ (evs ++ [.rsp r])) := by
  have hw := h.writes.trans (State.writesLeft_le hs.host)
  have hd := h.delays.trans s.delaysLeft_le
  have hmode := isSome_requiredMode s.op
  unfold AnswersPacket acceptance
  split
  · rename_i hop
    rw [hop] at hmode
    exact ⟨evs, r, rfl, h.quiet.1, h.quiet.2, fun hr => by simp [h.status.1 hr] at hmode, hw, hd⟩
  · rename_i hop
    have hzero : mostWrites s.op = 0 ∧ mostDelays s.op = 0 := by
      have hl := hs.host
      cases hi : s.op <;> simp_all [isOperation, Instr.layer, mostWrites, mostDelays]
    have hnone : requiredMode s.op = none := by simpa [hop] using hmode
    rw [h.status.2 hnone, eq_nil_of_no_events h.quiet (hzero.1 ▸ hw) (hzero.2 ▸ hd)]
    rfl

/-- A packet whose inputs are there is answered, with R134's writes and the table's delays at most. -/
theorem exec_answers_packet {i : Instr} {s : State} (hl : i.layer = .host) (hw : i.wf = true) (hs : s.Inv)
    (hidle : s.idle) (hpk : s.pkt = []) (ha : AnswersThere (mostWrites i) s) (he : EndsThere (mostDelays i) s) (ht : TakesThere 1 s) :
    ∃ u evs, exec i s = .next u ∧ u.Inv ∧ u.idle ∧ Spent s u evs ∧ AnswersPacket i evs ∧
      (answersOf evs).length ≤ mostWrites i ∧ delaysOf evs ≤ mostDelays i ∧ responsesOf evs = 1 := by
  obtain ⟨s1, t, hex, htab, rfl, h1, hpre⟩ := exec_accepts hl hw hs.showFunction hpk hidle
  obtain ⟨hpa, hpd, hpr⟩ := acceptance_takes_nothing s1.op
  have hwl := State.writesLeft_le h1.host
  have hdl := s1.delaysLeft_le
  obtain ⟨u, hu, ⟨evs, hrun, hwait⟩ | ⟨evs, r, hends⟩⟩ := h1.run_bound htab
  · have hans : s.busAnswers = s1.busAnswers := by simpa [hpa] using hpre.answers
    have hend : s.delayEnds = s1.delayEnds := by simpa [hpd] using hpre.ends
    have htake : s.rspTakes = s1.rspTakes := by simpa [hpr] using hpre.takes
    have hgoes := hrun.not_waits (hwl.trans (hans ▸ ha)) (hdl.trans (hend ▸ he)) (htake ▸ ht : 1 ≤ s1.rspTakes)
    cases hwait.symm.trans hgoes
  · refine ⟨u, _, hex.trans hu, hends.inv, hends.idle, hpre.trans hends.spent, hends.answersPacket h1, ?_, ?_, ?_⟩
    · simpa [hpa, answersOf] using hends.writes.trans hwl
    · simpa [hpd, delaysOf] using hends.delays.trans hdl
    · simp [hpr, hends.quiet.2, responsesOf]

/-- The bytes that are to come are no part of the invariant of an idle block. -/
theorem State.Inv.withBytes {s : State} (h : s.Inv) (hi : s.idle) (bytes : List Byte) :
    { s with bytes := bytes, pkt := [] }.Inv := by
  rcases inv_iff.1 h with hr | ⟨hsf, hw, -⟩
  · cases hi.1.symm.trans hr.busy
  · obtain ⟨hu, hx, -, ho, hl⟩ := widths_iff.1 hw
    exact inv_iff.2 (.inr ⟨hsf, widths_iff.2 ⟨hu, hx, Nat.zero_le _, ho, hl⟩, rfl, hi.1, hi.2⟩)

theorem run_core_add {m : Nat} (n : Nat) : ∀ {s t : State}, Host.Core.run Sys2Proof.core m s = .next t →
    Host.Core.run Sys2Proof.core (m + n) s = Host.Core.run Sys2Proof.core n t := by
  induction m with
  | zero => intro s t h; cases h; rw [Nat.zero_add]
  | succ m ih =>
    intro s t h
    obtain ⟨u, hs, hu⟩ := run_core_next h
    rw [Nat.succ_add, run_core_succ hs, ih hu]

/-- Settles O54, by induction on the packets: each is handed over byte by byte, and answered from the state that the one
before it left. -/
theorem everyPacketGetsOneResponse : Obligations.EveryPacketGetsOneResponse := by
  intro is
  induction is with
  | nil =>
    intro s _ hs hidle hpk hbytes _ _ _
    rw [hbytes]
    exact ⟨s, [], rfl, hs, hidle, hpk, hbytes, by simp, rfl, rfl, (Nat.zero_add _).symm, (Nat.zero_add _).symm⟩
  | cons i is ih =>
    intro s hwf hs hidle hpk hbytes ha he ht
    obtain ⟨⟨hl, hw⟩, hwf⟩ := List.forall_mem_cons.1 hwf
    simp only [AnswersThere, EndsThere, TakesThere, List.map_cons, List.sum_cons, List.length_cons] at ha he ht
    rw [List.flatMap_cons] at hbytes
    have hpos : 0 < (encode i).length := by
      cases hn : encode i with
      | nil => cases hn ▸ decode_encode hl hw
      | cons b bs => simp
    have hpacket := packetByteByByteRunsOnce i s 0 (is.flatMap encode) hl hw hidle hpos hpk hbytes
    obtain ⟨u, evs, hex, hinv, hui, hspent, hans, hwrites, hdelays, hrsp⟩ :=
      exec_answers_packet (s := { s with bytes := is.flatMap encode, pkt := [] }) hl hw
        (hs.withBytes hidle _) hidle rfl (Nat.le_of_add_right_le ha) (Nat.le_of_add_right_le he)
        (by simp only [TakesThere]; omega)
    have hu := exec_untouched hex
    have hspent : Spent s u evs := hspent.of_bytes
    have hcount := congrArg List.length hspent.answers
    have hends := hspent.ends
    have htakes := hspent.takes
    rw [List.length_append] at hcount
    obtain ⟨v, evs', hrun, hvinv, hvi, hvp, hvb, hvt, hva, hvans, hvends, hvtakes⟩ :=
      ih u hwf hinv hui hu.pkt hu.bytes (by simp only [AnswersThere]; omega) (by simp only [EndsThere]; omega)
        (by simp only [TakesThere]; omega)
    rw [hex, Nat.sub_zero] at hpacket
    refine ⟨v, evs ++ evs', ?_, hvinv, hvi, hvp, hvb, ?_, ⟨evs, evs', rfl, hans, hva⟩, ?_, ?_, ?_⟩
    · rw [hbytes, List.length_append, run_core_add _ hpacket, ← hrun, hu.bytes]
    · rw [hvt, hspent.trace, List.append_assoc]
    · rw [hspent.answers, hvans, answersOf_append, List.append_assoc]
    · rw [delaysOf_append]; omega
    · rw [List.length_cons]; omega

end Sys2Proof.Machine
end

section
/-! RunningOperationsEndUnderThePremises and RunsRestOnlyWhereAllIsDone: under R163's premises a request that waits is
abandoned by a reset, and every other one is answered. -/

namespace Sys2Proof.Machine

open Sys2Proof.Expect

/-- The invariant holds throughout a run that begins in it. -/
theorem throughout_inv {s : State} (hs : s.Inv) : Throughout State.Inv s := by
  intro n
  induction n generalizing s with
  | zero => intro t h; cases h; exact hs
  | succ n ih =>
    intro t h
    obtain ⟨u, hu, ht⟩ := run_core_next h
    obtain ⟨u', hu', hinv⟩ := stepKeepsTheInvariant s hs
    cases hu.symm.trans hu'
    exact ih hinv t ht

/-- Where a reset comes, one step makes the block idle. -/
theorem idle_after_reset {s : State} (h : s.resetComes = true) :
    ∃ t, Host.Core.run Sys2Proof.core 1 s = .next t ∧ t.busy = false := by
  rcases step_split s with ⟨-, i, later, -, hs⟩ | ⟨h', -⟩
  · exact ⟨_, (run_core_one s).trans hs, rfl⟩
  · cases h.symm.trans h'

/-- A block that comes in one step to a state whose request waits is idle in two, where no request is left standing. -/
theorem idle_after_wait {s u : State} (hrun : Throughout (fun t => t.leftStanding = false) s) (hs : step s = .next u)
    (hw : u.waits = true) : ∃ t, Host.Core.run Sys2Proof.core 2 s = .next t ∧ t.busy = false := by
  obtain ⟨t, ht, hb⟩ := idle_after_reset (resetComes_of_waits (hrun.tail hs).here hw)
  exact ⟨t, (run_core_succ hs 1).trans ht, hb⟩

/-- An operation with no write standing ends within two steps, and by its response in one, if no reset comes. -/
theorem ends_of_no_write {s : State} (h : s.Running) (hp : ∀ f ph, s.pend ≠ some (.write f ph))
    (hrun : Throughout (fun t => t.leftStanding = false) s) :
    (∃ k t, k ≤ 2 ∧ Host.Core.run Sys2Proof.core k s = .next t ∧ t.busy = false) ∧
    (ResetOnlyWhenIdle s → ∃ t evs r, step s = .next t ∧ Ends s t evs r) := by
  cases hr : s.resetComes with
  | true =>
    obtain ⟨t, ht, hb⟩ := idle_after_reset hr
    exact ⟨⟨1, t, by omega, ht, hb⟩, fun hi => by cases hr.symm.trans (hi.here h.busy)⟩
  | false =>
    obtain ⟨u, hu, hways⟩ := h.goOn_other_ways hp
    have hstep := (step_goOn hr).trans hu
    rcases hways with ⟨evs, hon, hw⟩ | ⟨evs, r, hends⟩
    · obtain ⟨t, ht, hb⟩ := idle_after_wait hrun hstep hw
      refine ⟨⟨2, t, le_rfl, ht, hb⟩, fun hi => ?_⟩
      have hreset := resetComes_of_waits (hrun.tail hstep).here hw
      cases hreset.symm.trans ((Throughout.tail hi hstep).here hon.running.busy)
    · exact ⟨⟨1, u, by omega, (run_core_one s).trans hstep, hends.idle.1⟩, fun _ => ⟨u, evs, r, hstep, hends⟩⟩

/-- Settles O55: a write that stands is answered in the first step, or waits; then the operation runs to its response, or
waits; and a reset abandons what waits. -/
theorem runningOperationsEndUnderThePremises : Obligations.RunningOperationsEndUnderThePremises := by
  intro s t n hs hbus hclock hhost ht hb
  have hrun := (nothing_left_standing_iff.1 ⟨hbus, hclock, hhost⟩).from ht
  have h : t.Running := (throughout_inv hs n t ht).running hb
  by_cases hp : ∃ f ph, t.pend = some (.write f ph)
  case neg =>
    obtain ⟨⟨k, t', hk, hk', hb'⟩, hends⟩ := ends_of_no_write h (fun f ph hq => hp ⟨f, ph, hq⟩) hrun
    refine ⟨⟨k, t', by omega, hk', hb'⟩, fun hi => ?_⟩
    obtain ⟨t', evs, r, hstep, he⟩ := hends (Throughout.from hi ht)
    exact ⟨1, t', evs, r, by omega, (run_core_one t).trans hstep, he.idle, he.spent.trace, he.quiet.2, he.quiet.1⟩
  obtain ⟨f, ph, hp⟩ := hp
  cases hr : t.resetComes with
  | true =>
    obtain ⟨t', ht', hb'⟩ := idle_after_reset hr
    exact ⟨⟨1, t', by omega, ht', hb'⟩, fun hi => by cases hr.symm.trans ((Throughout.from hi ht).here hb)⟩
  | false =>
    obtain ⟨u, evs, hu, hon, hways⟩ := h.goOn_write_ways hp
    have hstep := (step_goOn hr).trans hu
    rcases hways with hw | ⟨-, hno⟩
    · obtain ⟨t', ht', hb'⟩ := idle_after_wait hrun hstep hw
      refine ⟨⟨2, t', by omega, ht', hb'⟩, fun hi => ?_⟩
      have hreset := resetComes_of_waits (hrun.tail hstep).here hw
      cases hreset.symm.trans (((Throughout.from hi ht).tail hstep).here hon.running.busy)
    · obtain ⟨⟨k, t', hk, hk', hb'⟩, hends⟩ := ends_of_no_write hon.running hno (hrun.tail hstep)
      refine ⟨⟨k + 1, t', by omega, (run_core_succ hstep k).trans hk', hb'⟩, fun hi => ?_⟩
      obtain ⟨t', fs, r, hstep', he⟩ := hends ((Throughout.from hi ht).tail hstep)
      have he := hon.ends he
      exact ⟨2, t', evs ++ fs, r, le_rfl, (run_core_succ hstep 1).trans ((run_core_one u).trans hstep'), he.idle,
        he.spent.trace, he.quiet.2, he.quiet.1⟩

/-! ## Whole packets -/

/-- Whole packets that begin with a whole packet go on with whole packets. -/
theorem WholePackets.of_packet {bs more : List Byte} {i : Instr} (h : WholePackets (bs ++ more))
    (hd : decode bs = .ok (i, [])) : WholePackets more := by
  obtain ⟨is, hwf, hbytes⟩ := h
  have hd := decode_append hd more
  rw [hbytes, List.nil_append] at hd
  cases is with
  | nil => cases hd
  | cons j is =>
    obtain ⟨⟨hl, hw⟩, hrest⟩ := List.forall_mem_cons.1 hwf
    rw [List.flatMap_cons, decode_append (decode_encode hl hw), List.nil_append] at hd
    cases hd
    exact ⟨is, hrest, rfl⟩

/-- Whole packets that are no whole packet are none. -/
theorem WholePackets.eq_nil {bs : List Byte} {e : DecodeError} (h : WholePackets bs) (hd : decode bs = .error e) :
    bs = [] := by
  obtain ⟨is, hwf, rfl⟩ := h
  cases is with
  | nil => rfl
  | cons i is =>
    obtain ⟨⟨hl, hw⟩, -⟩ := List.forall_mem_cons.1 hwf
    rw [List.flatMap_cons, decode_append (decode_encode hl hw)] at hd
    cases hd

/-- A partial packet is held by an idle block, none by a running one (R15). -/
theorem State.Inv.pktPartial {s : State} (h : s.Inv) : ∃ e, decode s.pkt = .error e := by
  rcases inv_iff.1 h with hr | ⟨-, -, hp, -⟩
  · exact ⟨.empty, by rw [hr.pkt]; rfl⟩
  · exact pktPartial_iff.1 hp

/-- A step leaves the host in the middle of no packet: it takes a byte of one, or the last byte of one, or a reset brings
the bytes after it. -/
theorem hostCompletesPackets_step {s t : State} (hs : s.Inv) (h : HostCompletesPackets s) (hstep : step s = .next t) :
    HostCompletesPackets t := by
  obtain ⟨hnow, hlater⟩ := h
  have of_exec : ∀ {i : Instr} {u : State}, exec i u = .next t → WholePackets (u.pkt ++ u.bytes) →
      (∀ i ∈ u.afterResets, WholePackets i.bytes) → HostCompletesPackets t := by
    intro i u he hnow hlater
    have hu := exec_untouched he
    exact ⟨by rwa [hu.pkt, hu.bytes], by rwa [hu.afterResets]⟩
  rcases step_cases hstep with ⟨-, i, later, hl, rfl⟩ | ⟨-, hg⟩
  · rw [hl] at hlater
    obtain ⟨hi, hlater⟩ := List.forall_mem_cons.1 hlater
    exact ⟨hi, hlater⟩
  rcases goOn_cases hg with ⟨_, _, i, -, -, he⟩ | ⟨-, -, he⟩ | ⟨-, -, b, later, i, rest, hb, hd, he⟩ |
    ⟨-, -, b, later, e, hb, hd, rfl⟩ | ⟨-, -, -, rfl⟩
  · exact of_exec he hnow hlater
  · exact of_exec he hnow hlater
  · obtain ⟨e, hpart⟩ := hs.pktPartial
    obtain rfl := decode_last_byte hpart hd
    rw [hb, List.append_cons] at hnow
    exact of_exec he (hnow.of_packet hd) hlater
  · rw [hb, List.append_cons] at hnow
    exact ⟨hnow, hlater⟩
  · exact ⟨hnow, hlater⟩

theorem hostCompletesPackets_run {n : Nat} : ∀ {s t : State}, s.Inv → HostCompletesPackets s →
    Host.Core.run Sys2Proof.core n s = .next t → HostCompletesPackets t := by
  induction n with
  | zero => intro s t _ h hr; cases hr; exact h
  | succ n ih =>
    intro s t hs h hr
    obtain ⟨u, hu, ht⟩ := run_core_next hr
    exact ih (throughout_inv hs 1 u ((run_core_one s).trans hu)) (hostCompletesPackets_step hs h hu) ht

/-- A reset that comes changes the state: it is one reset less to come. -/
theorem no_reset_of_rest {s : State} (h : step s = .next s) : s.resetComes = false := by
  rcases step_cases h with ⟨-, i, later, hl, hs⟩ | ⟨hr, -⟩
  · have hlater : s.afterResets = later := congrArg State.afterResets hs
    exact absurd (hl.symm.trans hlater) (List.cons_ne_self i later)
  · exact hr

/-- Settles O56: a state that rests is stalled with no reset to come; a request that stands would be left standing, so the
block is idle with no byte to take. -/
theorem runsRestOnlyWhereAllIsDone : Obligations.RunsRestOnlyWhereAllIsDone := by
  intro s t n hs hbus hclock hhost hpackets ht hrest
  have hinv := throughout_inv hs n t ht
  have hleft : t.leftStanding = false := nothing_left_standing_iff.1 ⟨hbus, hclock, hhost⟩ n t ht
  have hreset := no_reset_of_rest hrest
  have hstalled : t.stalled = true := by
    by_contra h
    exact nothingHangsWithInputsThere t t hinv (by simpa using h) hrest rfl
  have hnone : t.pend = none := by
    by_contra hp
    have hw : t.waits = true := by
      have hb : t.busy = true := by
        cases hb : t.busy with
        | true => rfl
        | false => exact absurd (hinv.idle hb).2 hp
      rcases hq : t.pend with _ | ⟨f, ph⟩ | ⟨m, ph⟩ | r
      · exact absurd hq hp
      all_goals simpa [State.stalled, hq, hb] using hstalled
    cases hreset.symm.trans (resetComes_of_waits hleft hw)
  obtain ⟨hb, hbytes⟩ : t.busy = false ∧ t.bytes = [] := by simpa [State.stalled, hnone] using hstalled
  have hafter : t.afterResets = [] := by simpa [State.resetComes, hstalled] using hreset
  obtain ⟨e, hpart⟩ := hinv.pktPartial
  have hwhole := (hostCompletesPackets_run hs hpackets ht).1
  rw [hbytes, List.append_nil] at hwhole
  exact ⟨⟨hb, hnone⟩, hwhole.eq_nil hpart, hbytes, hafter⟩

end Sys2Proof.Machine
end

section
/-! The encoding both ways: packets (HostPacketsDecodeAsEncoded, DecodedPacketsReencode, WrittenPacketsDecode), frames
(FramesDecodeAsEncoded, DecodedFramesReencode) and the cursor-address byte (CursorByteIsTheOr). -/

namespace Sys2Proof

open Sys2Proof.Machine Sys2Proof.Expect

/-- Settles O1: a well-formed packet decodes to its instruction, and bytes behind a packet stay behind it. -/
theorem hostPacketsDecodeAsEncoded : Obligations.HostPacketsDecodeAsEncoded :=
  fun _ rest hl hw => decode_append (decode_encode hl hw) rest

/-- Byte 0 of an operation (R61, R62): its opcode, with `n` in bit 0 where the operation has a one-bit operand. -/
def byte0Of (k : OpKind) (n : Bool) : Byte :=
  match k with
  | .init => 0x01#8
  | .clear => 0x02#8
  | .setDisplay => 0x10#8 ||| bitByte n
  | .setCursor => 0x12#8 ||| bitByte n
  | .setBlink => 0x14#8 ||| bitByte n
  | .setCursorPosition => 0x20#8 ||| bitByte n
  | .writeChar => 0x30#8
  | .writeStr => 0x31#8
  | .setRgb => 0x40#8

/-- Byte 0 is told by the operation it opens and its bit 0 (R61, R62): the bits under a row's mask are fixed. -/
theorem byte0Of_opKindOf {b : Byte} {k : OpKind} (h : opKindOf b = some k) : byte0Of k (lowBit b) = b := by
  have hall : ∀ b : Byte, (opKindOf b).all (fun k => byte0Of k (lowBit b) == b) = true := by decide +kernel
  simpa [h] using hall b

/-- The bytes that were read are the encoding of what they decode to, and what is left of them. -/
theorem encode_append_of_decode {bs rest : List Byte} {i : Instr} (h : decode bs = .ok (i, rest)) :
    encode i ++ rest = bs := by
  cases bs with
  | nil => cases h
  | cons b bs =>
    simp only [decode] at h
    split at h <;> rename_i hk
    case h_1 => cases h; rfl
    all_goals have hb := byte0Of_opKindOf hk
    case h_7 | h_8 =>
      split at h <;> cases h
      exact congrArg (· :: _) hb
    case h_9 =>
      split at h
      · rename_i len later
        split at h <;> cases h
        rename_i hlen
        have hl : (later.take len.toNat).length = len.toNat := List.length_take_of_le hlen
        simp only [encode, hl, BitVec.ofNat_toNat, BitVec.setWidth_eq, List.cons_append, List.take_append_drop]
        exact congrArg (· :: _) hb
      · cases h
    case h_10 =>
      split at h <;> cases h
      exact congrArg (· :: _) hb
    all_goals
      cases h
      exact congrArg (· :: _) hb

/-- Settles O2. -/
theorem decodedPacketsReencode : Obligations.DecodedPacketsReencode :=
  fun _ _ _ h => ⟨decode_layer h, decode_wf h, encode_append_of_decode h⟩

/-! ## Frames -/

/-- R53, R56: the byte of a set-DDRAM-address command is in none of the other four sets, and tells its address. -/
theorem decodeLcdFrame_setDdram (a : BitVec 7) :
    decodeLcdFrame 0x08#8 0x80#8 (0x80#8 ||| a.setWidth 8) = some (.lcdSetDdram a) := by
  revert a; decide +kernel

/-- R55: the byte of a display-control command is in none of the other four sets, and tells its flags. -/
theorem decodeLcdFrame_control (d c b : Bool) :
    decodeLcdFrame 0x08#8 0x80#8 (0x08#8 ||| bitByte d <<< 2 ||| bitByte c <<< 1 ||| bitByte b) =
      some (.lcdControl d c b) := by
  revert d c b; decide

/-- Settles O3: the bytes of a kind without an operand in `b1`'s bits are looked up as they are. -/
theorem framesDecodeAsEncoded : Obligations.FramesDecodeAsEncoded := by
  intro i hl
  cases i with
  | lcdControl d c b => exact decodeLcdFrame_control d c b
  | lcdSetDdram a => exact decodeLcdFrame_setDdram a
  | lcdClear | lcdEntryMode | lcdFunctionSet | lcdData => rfl
  | rgbMode1 | rgbLedout | rgbMode2 | rgbRed | rgbGreen | rgbBlue => rfl
  | _ => exact absurd rfl hl

/-- The control byte of three flags, as the encoder writes it and as R55 does. -/
theorem or_bitByte_eq_controlByte (d c b : Bool) :
    0x08#8 ||| bitByte d <<< 2 ||| bitByte c <<< 1 ||| bitByte b = controlByte d c b := by
  revert d c b; decide

/-- For SHOW_FUNCTION = 0x08 the encoding of a frame kind is the two bytes of its frame (R50 to R59). -/
theorem encode_of_frameOf {s : State} {i : Instr} {f : Frame} (hs : s.showFunction = 0x08#8)
    (h : frameOf s i = some f) : encode i = [f.b0, f.b1] := by
  cases i <;> simp only [frameOf, Option.some.injEq, reduceCtorEq] at h <;> subst h
  case lcdControl d c b => simp only [encode, lcdCmd, or_bitByte_eq_controlByte]
  case lcdSetDdram a => exact congrArg (fun b => [0x80#8, b]) (setDdramByte_eq_append a)
  case lcdFunctionSet => simp [encode, lcdCmd, hs]
  all_goals rfl

/-- Settles O4: what two bytes decode to is the kind of the frame they make. -/
theorem decodedFramesReencode : Obligations.DecodedFramesReencode := by
  intro target b0 b1 i h
  cases target with
  | host => cases h
  | lcdFrame => exact ⟨decodeLcdFrame_layer h, encode_of_frameOf (s := State.reset) rfl (frameOf_decodeLcdFrame h)⟩
  | rgbFrame => exact ⟨decodeRgbFrame_layer h, encode_of_frameOf (s := State.reset) rfl (frameOf_decodeRgbFrame h)⟩

/-! ## Written-out words, and the cursor-address byte -/

/-- Settles O5: the decoder computes each of these. -/
theorem writtenPacketsDecode : Obligations.WrittenPacketsDecode :=
  ⟨rfl, rfl, rfl, rfl, rfl, rfl, rfl, rfl, rfl, rfl, rfl, rfl, rfl, rfl, rfl⟩

/-- R56: the range of the cursor-address byte for the visible columns. -/
theorem cursorByte_range (w : Bool) (col : Byte) (h : col ≤ 0x0F#8) :
    if w then 0xC0#8 ≤ cursorByte col w ∧ cursorByte col w ≤ 0xCF#8
      else 0x80#8 ≤ cursorByte col w ∧ cursorByte col w ≤ 0x8F#8 := by
  revert w col; decide +kernel

/-- R56: the bits of the cursor-address byte. -/
theorem cursorByte_getLsbD (col : Byte) (w : Bool) (k : Nat) (hk : k < 8) :
    (cursorByte col w).getLsbD k = (col.getLsbD k || k == 7 || (w && k == 6)) := by
  revert k col w; decide +kernel

/-- Settles O9. -/
theorem cursorByteIsTheOr : Obligations.CursorByteIsTheOr := by
  refine fun col w => ⟨rfl, ?_, ?_, fun k hk => ?_, cursorByte_range w col, rfl, rfl⟩
  · rw [cursorByte_getLsbD col w 7 (by omega)]
    simp
  · rw [cursorByte_getLsbD col w 6 (by omega)]
    simp [Bool.or_comm]
  · have h7 : (k == 7) = false := by simp; omega
    have h6 : (k == 6) = false := by simp; omega
    rw [cursorByte_getLsbD col w k (by omega), h7, h6, Bool.or_false, Bool.and_false, Bool.or_false]

end Sys2Proof
end

section
/-! The host's byte and what is run in one step (StepRunsTheWholePacket, IllegalByteIsRefused), and an operation of one
write (OneByteStringIsWriteChar). -/

namespace Sys2Proof.Machine

open Sys2Proof.Expect

/-- Settles O33. -/
theorem stepRunsTheWholePacket : Obligations.StepRunsTheWholePacket :=
  fun _ _ _ _ _ hs hb hd => (step_goOn (resetComes_of_byte hs hb)).trans (goOn_packet hs hb hd)

/-- A run that has come to its status, put already or in this micro-step, ends with the response where the host takes
it. -/
theorem run_gives {t : Table} {s s1 : State} {r : Response} {k : Nat} (hi : issueIfFree t s = some (raise r s1))
    (hr : s1.rspTakes = k + 1) (n : Nat) : run t (n + 1) s = .next (giveResponse r { s1 with rspTakes := k }) :=
  run_ended t n hi (settle_response t (s := raise r s1) rfl hr)

/-- The illegal byte's whole meaning, where the host takes the response (R64, R133). -/
theorem exec_illegal {b : Byte} {s : State} {k : Nat} (hs : s.idle) (hr : s.rspTakes = k + 1) :
    exec (.illegal b) s = .next (giveResponse .illegalCommand { latch (.illegal b) s with rspTakes := k }) :=
  (operate_idle hs.1 hs.2).trans (run_gives (s1 := latch (.illegal b) s) rfl hr 0)

/-- Settles O31: the byte alone is the packet, and its meaning is the response. -/
theorem illegalByteIsRefused : Obligations.IllegalByteIsRefused := by
  intro s b later hs hpkt htakes hb hill
  have hd : decode [b] = .ok (.illegal b, []) := decode_encode (i := .illegal b) rfl hill
  obtain ⟨k, hk⟩ : ∃ k, s.rspTakes = k + 1 := Nat.exists_eq_add_of_le' htakes
  have hstep := stepRunsTheWholePacket s b later _ _ hs hb (by rw [hpkt]; exact hd)
  rw [exec_illegal (s := { s with bytes := later, pkt := [] }) hs hk] at hstep
  exact ⟨hd, _, hstep, rfl, rfl, rfl, rfl, rfl, rfl, rfl, rfl, hk, ⟨rfl, rfl⟩, rfl, rfl, rfl⟩

/-- A write that is put, taken and answered in one micro-step. -/
theorem run_writes {t : Table} {s s1 : State} {f : Frame} {a : Answer} {l m : List BusMove} (hp : s.pend = none)
    (hi : t.issue s = some (sendFrame f s1)) (hl : afterReady s1.busMoves = some l) (hd : firstDone l = some (a, m))
    (n : Nat) : run t (n + 1) s = run t n (t.answered a (answerWrite f a m s1)) :=
  run_goesOn t n ((issueIfFree_free t hp).trans hi) (by simp [settle, takeRequest, hl, hd, answerWrite])

/-- After its one write WRITE_CHAR reports the answer (R106, R131). -/
theorem writeCharTable_status {c : Byte} {s : State} (hp : s.pend = none) (hu : s.upc = 0) (a : Answer) :
    ∃ u, issueIfFree (writeCharTable c) ((writeCharTable c).answered a s) =
      some (raise (statusOf a) { s with upc := u }) := by
  cases a with
  | ok => exact ⟨1, by simp [writeCharTable, oneWriteTable, issueIfFree, hp, hu, State.nextUpc, statusOf]⟩
  | err e => exact ⟨s.upc, rfl⟩

/-- After the last byte of its string WRITE_STR reports the answer (R108, R131). -/
theorem writeStrTable_status {str : List Byte} {s : State} (hp : s.pend = none) (hu : s.upc = 0)
    (hx : str.length = s.sidx + 1) (a : Answer) :
    ∃ x, issueIfFree (writeStrTable str) ((writeStrTable str).answered a s) =
      some (raise (statusOf a) { s with sidx := x }) := by
  cases a with
  | ok =>
    refine ⟨s.sidx + 1, ?_⟩
    simp [writeStrTable, writeStrIssue, writeStrAnswered, issueIfFree, hp, hu, hx, State.nextSidx, statusOf]
  | err e => exact ⟨s.sidx, rfl⟩

/-- An idle block that is Ready runs an operation that R140 admits there: the event `Op`, the one write, the status. -/
theorem operate_one_write {i : Instr} {t : Table} {s s2 : State} {f : Frame} {a : Answer} {l m : List BusMove}
    {r : Response} {k : Nat} (hs : s.idle) (hm : s.mode = .ready)
    (hi : t.issue ((latch i s).emit (.op i)) = some (sendFrame f ((latch i s).emit (.op i))))
    (hl : afterReady s.busMoves = some l) (hd : firstDone l = some (a, m))
    (hstatus : issueIfFree t (t.answered a (answerWrite f a m ((latch i s).emit (.op i)))) = some (raise r s2))
    (hr : s2.rspTakes = k + 1) :
    operate i (accept .ready i) t 2 s = .next (giveResponse r { s2 with rspTakes := k }) :=
  calc operate i (accept .ready i) t 2 s
      = run t 2 ((latch i s).emit (.op i)) := by rw [operate_idle hs.1 hs.2, accept_admitted hm]
    _ = run t 1 (t.answered a (answerWrite f a m ((latch i s).emit (.op i)))) :=
      run_writes (s := (latch i s).emit (.op i)) hs.2 hi hl hd 1
    _ = .next (giveResponse r { s2 with rspTakes := k }) := run_gives hstatus hr 0

/-- WRITE_CHAR while Ready, with the Bus's answer and the host's take there (R106). -/
theorem exec_writeChar {c : Byte} {s : State} {a : Answer} {l m : List BusMove} {k : Nat} (hs : s.idle)
    (hm : s.mode = .ready) (hl : afterReady s.busMoves = some l) (hd : firstDone l = some (a, m))
    (hr : s.rspTakes = k + 1) : ∃ u, exec (.writeChar c) s = .next (giveResponse (statusOf a)
      { answerWrite (data c s) a m ((latch (.writeChar c) s).emit (.op (.writeChar c))) with
        upc := u, rspTakes := k }) := by
  obtain ⟨u, hu⟩ := writeCharTable_status (c := c)
    (s := answerWrite (data c s) a m ((latch (.writeChar c) s).emit (.op (.writeChar c)))) rfl rfl a
  exact ⟨u, operate_one_write (t := writeCharTable c) hs hm rfl hl hd hu hr⟩

/-- WRITE_STR of one byte while Ready, with the Bus's answer and the host's take there (R108). -/
theorem exec_writeStr_one {c : Byte} {s : State} {a : Answer} {l m : List BusMove} {k : Nat} (hs : s.idle)
    (hm : s.mode = .ready) (hl : afterReady s.busMoves = some l) (hd : firstDone l = some (a, m))
    (hr : s.rspTakes = k + 1) : ∃ x, exec (.writeStr [c]) s = .next (giveResponse (statusOf a)
      { answerWrite (data c s) a m ((latch (.writeStr [c]) s).emit (.op (.writeStr [c]))) with
        sidx := x, rspTakes := k }) := by
  obtain ⟨x, hx⟩ := writeStrTable_status (str := [c])
    (s := answerWrite (data c s) a m ((latch (.writeStr [c]) s).emit (.op (.writeStr [c])))) rfl rfl rfl a
  exact ⟨x, operate_one_write (t := writeStrTable [c]) hs hm rfl hl hd hx hr⟩

/-- Settles O23: either operation writes the byte, and reports the answer. -/
theorem oneByteStringIsWriteChar : Obligations.OneByteStringIsWriteChar := by
  intro c s hs hm hans htakes
  obtain ⟨k, hk⟩ : ∃ k, s.rspTakes = k + 1 := Nat.exists_eq_add_of_le' htakes
  rw [AnswersThere, busAnswers_free (not_taken_of_none hs.2).1] at hans
  obtain ⟨a, later, ha⟩ := List.exists_cons_of_length_pos hans
  obtain ⟨l, m, hl, hd, -⟩ := answersAhead_cons ha
  obtain ⟨u, h1⟩ := exec_writeChar (c := c) hs hm hl hd hk
  obtain ⟨x, h2⟩ := exec_writeStr_one (c := c) hs hm hl hd hk
  exact ⟨_, _, [.write (data c s) a, .rsp (statusOf a)], h1, h2, by simp, by simp, rfl, rfl, rfl, rfl⟩

end Sys2Proof.Machine
end

section
/-! OnlyTheTwelveFrameKinds: a frame of one of the twelve kinds is allowed, and a running operation has no other at the
port, so every write that a step makes is allowed. -/

namespace Sys2Proof.Machine

open Sys2Proof.Expect

theorem commandByte_controlByte (d c b : Bool) : commandByte (controlByte d c b) = true := by
  revert d c b; decide

theorem commandByte_setDdram (a : BitVec 7) : commandByte (BitVec.ofBool true ++ a) = true := by
  revert a; decide +kernel

/-- The twelve kinds of frame are allowed, to the block's own addresses and for its SHOW_FUNCTION (R50 to R53, R59). -/
theorem frameAllowed_of_frameOf {s : State} {i : Instr} {f : Frame} (hs : s.showFunction = Config.showFunction)
    (h : frameOf s i = some f) : frameAllowed s.addrLcd s.addrRgb f = true := by
  cases i <;> simp only [frameOf, Option.some.injEq, reduceCtorEq] at h <;> subst h
  case lcdControl d c b => simp [frameAllowed, lcdCmd, commandByte_controlByte]
  case lcdSetDdram a => simp only [frameAllowed, lcdCmd, commandByte_setDdram, BEq.rfl, Bool.and_true, Bool.true_or]
  case lcdFunctionSet => simp [frameAllowed, lcdCmd, hs, Config.showFunction, commandByte]
  all_goals simp [frameAllowed, lcdCmd, lcdChr, rgbReg, commandByte]

/-- The write that stands at the port of a running operation is allowed. -/
theorem State.Running.frame_allowed {s : State} {f : Frame} {ph : Phase} (h : s.Running)
    (hp : s.pend = some (.write f ph)) : frameAllowed s.addrLcd s.addrRgb f = true := by
  obtain ⟨i, hi⟩ := h.frame hp
  exact frameAllowed_of_frameOf h.showFunction (frameOf_frameKind hi)

theorem traceAllowed_iff {s : State} :
    s.traceAllowed = true ↔ ∀ f a, .write f a ∈ s.trace → frameAllowed s.addrLcd s.addrRgb f = true := by
  simp only [State.traceAllowed, List.all_eq_true]
  refine ⟨fun h f a hm => h _ hm, fun h e hm => ?_⟩
  cases e with
  | write f a => exact h f a hm
  | op | delay | rsp => rfl

/-- Every write that the record of `u` has and that of `s` has not is an allowed one. -/
def NewWritesAllowed (s u : State) : Prop :=
  ∀ f a, .write f a ∈ u.trace → .write f a ∈ s.trace ∨ frameAllowed u.addrLcd u.addrRgb f = true

theorem NewWritesAllowed.of_trace_eq {s u : State} (h : u.trace = s.trace) : NewWritesAllowed s u :=
  fun _ _ hm => .inl (h ▸ hm)

/-- One event more, which is no write or an allowed one. -/
theorem NewWritesAllowed.event {s u v : State} {e : Event} (h : NewWritesAllowed s u) (htr : v.trace = u.trace ++ [e])
    (hl : v.addrLcd = u.addrLcd) (hr : v.addrRgb = u.addrRgb)
    (he : ∀ f a, e = .write f a → frameAllowed u.addrLcd u.addrRgb f = true) : NewWritesAllowed s v := by
  intro f a hm
  rw [htr, List.mem_append, List.mem_singleton] at hm
  rw [hl, hr]
  rcases hm with hm | hm
  · exact h f a hm
  · exact .inr (he f a hm.symm)

/-- A running operation makes only allowed writes. -/
theorem State.Running.run_writes_allowed {t : Table} {n : Nat} {s u : State} (h : s.Running)
    (ht : tableOf s.op = some t) (hr : Machine.run t n s = .next u) : NewWritesAllowed s u := by
  refine (run_keeps t (fun v => v.Running ∧ tableOf v.op = some t ∧ NewWritesAllowed s v) (NewWritesAllowed s)
    ?_ ?_ ?_ ?_ ?_ n s u ⟨h, ht, .of_trace_eq rfl⟩ hr).elim (·.2.2) id
  · rintro v v1 ⟨hv, ht, hw⟩ hp hi
    have hv1 := hv.issue ht hp hi
    obtain ⟨q, m, c, rfl, -⟩ := issue_cases ht hi
    exact ⟨hv1, ht, hw⟩
  · rintro v ⟨hv, ht, hw⟩
    exact ⟨hv.taken, by simpa using ht, by simpa [NewWritesAllowed] using hw⟩
  · rintro v f ph a m ⟨hv, ht, hw⟩ hp -
    have hv1 := hv.answered ht hp a m
    obtain ⟨_, _, _, _, he, -⟩ := answered_cases ht a (answerWrite f a m v)
    rw [he] at hv1 ⊢
    exact ⟨hv1, ht, hw.event rfl rfl rfl (by rintro _ _ ⟨⟩; exact hv.frame_allowed hp)⟩
  · rintro v d ph m ⟨hv, ht, hw⟩ hp -
    have hv1 := hv.delayOver ht hp m
    obtain ⟨_, _, he, -⟩ := delayOver_cases ht (endDelay d m v)
    rw [he] at hv1 ⊢
    exact ⟨hv1, ht, hw.event rfl rfl rfl (by rintro _ _ ⟨⟩)⟩
  · rintro v r later ⟨-, -, hw⟩ - -
    exact hw.event rfl rfl rfl (by rintro _ _ ⟨⟩)

/-- The write that stands is the only one that answering it makes. -/
theorem State.Running.answerFrame_writes_allowed {s : State} {f : Frame} {ph : Phase} (h : s.Running)
    (hp : s.pend = some (.write f ph)) : NewWritesAllowed s (answerFrame f s) := by
  rcases answerFrame_cases hp with ⟨-, he, -⟩ | ⟨a, m, -, he⟩ <;> rw [he]
  · exact .of_trace_eq (takeRequest_trace s)
  · obtain ⟨_, _, _, _, hr, -⟩ := react_cases a (answerWrite f a m s)
    rw [hr]
    exact NewWritesAllowed.event (.of_trace_eq rfl) rfl rfl rfl (by rintro _ _ ⟨⟩; exact h.frame_allowed hp)

theorem write_not_mem_acceptance (i : Instr) (f : Frame) (a : Answer) : .write f a ∉ acceptance i := by
  unfold acceptance
  split <;> simp

/-- From a state that meets the invariant the block makes only allowed writes by itself. -/
theorem goOn_writes_allowed {s t : State} (hs : s.Inv) (h : goOn s = .next t) : NewWritesAllowed s t := by
  cases hb : s.busy with
  | true =>
    have hrun := hs.running hb
    by_cases hp : ∃ f ph, s.pend = some (.write f ph)
    · obtain ⟨f, ph, hp⟩ := hp
      obtain ⟨i, hi⟩ := hrun.frame hp
      cases (goOn_write hp hi).symm.trans h
      exact hrun.answerFrame_writes_allowed hp
    · rw [goOn_resumes (.inl hb) fun f ph hq => hp ⟨f, ph, hq⟩] at h
      obtain ⟨tab, ht, he⟩ := exec_run hrun.host hb
      exact hrun.run_writes_allowed ht (he.symm.trans h)
  | false =>
    have hidle := hs.idle hb
    cases hbytes : s.bytes with
    | nil =>
      cases (goOn_noByte hidle hbytes).symm.trans h
      exact .of_trace_eq rfl
    | cons b later =>
      cases hd : decode (s.pkt ++ [b]) with
      | error e =>
        cases (goOn_byte hidle hbytes hd).symm.trans h
        exact .of_trace_eq rfl
      | ok r =>
        obtain ⟨i, rest⟩ := r
        rw [goOn_packet hidle hbytes hd] at h
        obtain ⟨s1, tab, he, ht, -, h1, hspent⟩ := exec_accepts (decode_layer hd) (decode_wf hd)
          (s := { s with bytes := later, pkt := [] }) hs.showFunction rfl hidle
        intro f a hm
        refine (h1.run_writes_allowed ht (he.symm.trans h) f a hm).imp_left fun hm => ?_
        rw [hspent.trace, List.mem_append] at hm
        exact hm.resolve_right (write_not_mem_acceptance i f a)

/-- Settles O46: the writes recorded already are allowed still, since the addresses never change; those that the step
makes are allowed; and what stands after it stands for an operation that runs by the invariant. -/
theorem onlyTheTwelveFrameKinds : Obligations.OnlyTheTwelveFrameKinds := by
  intro s t hs htr h
  obtain ⟨hl, hr, -⟩ := constantsNeverChange s t h
  obtain ⟨t', ht', hinv⟩ := stepKeepsTheInvariant s hs
  cases ht'.symm.trans h
  constructor
  · rw [traceAllowed_iff] at htr ⊢
    have hnew : NewWritesAllowed s t := by
      rcases step_cases h with ⟨-, i, later, -, rfl⟩ | ⟨-, hg⟩
      · exact .of_trace_eq rfl
      · exact goOn_writes_allowed hs hg
    intro f a hm
    refine (hnew f a hm).elim (fun hold => ?_) id
    rw [hl, hr]
    exact htr f a hold
  · intro f ph hp
    rcases inv_iff.1 hinv with hrun | ⟨-, -, -, -, hn⟩
    · exact hrun.frame_allowed hp
    · cases hp.symm.trans hn

end Sys2Proof.Machine
end

section
/-! The control register: a write of a flag is known by what it makes of each flag (`crUpdate_flag`), and CTRL is known
by its three flags (`ctrl_ext`), so the laws of R78 are equations of flags. -/

namespace Sys2Proof.Machine

open Sys2Proof.Expect

theorem crClear_flag (f g : Flag) (ctrl : BitVec 3) :
    (crClear f ctrl).getLsbD (flagBit g) = if g = f then false else ctrl.getLsbD (flagBit g) :=
  crUpdate_flag f g false ctrl

/-- CTRL holds the three flags and nothing else (R12). -/
theorem ctrl_ext {c d : BitVec 3} (h : ∀ f : Flag, c.getLsbD (flagBit f) = d.getLsbD (flagBit f)) : c = d := by
  refine BitVec.eq_of_getLsbD_eq fun i hi => ?_
  obtain rfl | rfl | rfl : i = 0 ∨ i = 1 ∨ i = 2 := by omega
  · exact h .blinkOn
  · exact h .cursorOn
  · exact h .displayOn

theorem crUpdate_flag_of_ne {f g : Flag} (hne : f ≠ g) (n : Bool) (ctrl : BitVec 3) :
    (crUpdate f n ctrl).getLsbD (flagBit g) = ctrl.getLsbD (flagBit g) := by
  rw [crUpdate_flag, if_neg hne.symm]

/-- Writes of different flags commute: no flag is written by both. -/
theorem crUpdate_comm {f g : Flag} (hne : f ≠ g) (m n : Bool) (ctrl : BitVec 3) :
    crUpdate f n (crUpdate g m ctrl) = crUpdate g m (crUpdate f n ctrl) := by
  refine ctrl_ext fun k => ?_
  by_cases hf : k = f
  · subst hf
    simp only [crUpdate_flag, if_true, if_neg hne]
  · simp only [crUpdate_flag, if_neg hf]

/-- The toggle's round trip restores CTRL exactly when the flag was 0: it leaves the flag 0 and the others alone. -/
theorem crClear_crSet_eq_iff (f : Flag) (ctrl : BitVec 3) :
    crClear f (crSet f ctrl) = ctrl ↔ ctrl.getLsbD (flagBit f) = false := by
  constructor
  · intro h
    rw [← h, crClear_flag, if_pos rfl]
  · refine fun h => ctrl_ext fun k => ?_
    rw [crClear_flag, crSet_flag]
    by_cases hk : k = f
    · rw [if_pos hk, hk, h]
    · rw [if_neg hk, if_neg hk]

/-- Settles O7, by the one fact of what a write makes of each flag. -/
theorem controlRegisterWritesOneFlag : Obligations.ControlRegisterWritesOneFlag :=
  fun f g ctrl => ⟨crSet_flag f g ctrl, crClear_flag f g ctrl, rfl, rfl⟩

/-- Settles O8, law by law in R78's order. -/
theorem controlRegisterLaws : Obligations.ControlRegisterLaws := by
  refine ⟨fun ctrl => ?value, fun f ctrl => ?idempotence, fun f g m n ctrl hne => ?independence,
    fun f ctrl => ?roundTrip, fun f ctrl => ?lastWriter⟩
  case value => exact ⟨crValue_eq_controlByte ctrl, crValue_range ctrl⟩
  case idempotence => exact ⟨crSet_crSet f ctrl, crUpdate_crUpdate f false ctrl⟩
  case independence => exact ⟨crUpdate_flag_of_ne hne n ctrl, crUpdate_comm hne m n ctrl⟩
  case roundTrip =>
    refine ⟨(crClear_crSet_eq_iff f ctrl).2, fun hset hback => ?_⟩
    have hclear := (crClear_crSet_eq_iff f ctrl).1 hback
    exact Bool.false_ne_true (hclear.symm.trans hset)
  case lastWriter => simp only [crSet_flag, crClear_flag, if_true, and_self]

end Sys2Proof.Machine
end

section
/-! The rows of INIT put one by one, and the answer to a standing write (InitRowsPutTheirRequests,
StandingWriteAnswerReachesItsOperation). -/

namespace Sys2Proof.Machine

open Sys2Proof.Expect

/-- Settles O13: each row of R86 puts its request, and with no move of the environment the operation waits there. -/
theorem initRowsPutTheirRequests : Obligations.InitRowsPutTheirRequests := by
  intro s hb ho hp ⟨hm, hc, hr⟩
  have row_put : ∀ {q m c}, Row s .init q m c →
      exec .init s = .next { s with pend := some q, mode := m, ctrl := c } :=
    fun h => exec_row rfl rfl hb ho hp hm hc hr (issue_of_row rfl h)
  have display_on : crValue (crSet .displayOn s.ctrl) = controlByte true (s.ctrl.getLsbD 1) (s.ctrl.getLsbD 0) := by
    generalize s.ctrl = c
    revert c; decide
  exact ⟨fun hu => row_put (.initPowerOn hu), fun hu => row_put (.initFunctionSet hu),
    fun hu => row_put (.initFunctionSetDelay hu), fun hu => display_on ▸ row_put (.initDisplayOn hu),
    fun hu => row_put (.initClear hu), fun hu => row_put (.initClearDelay hu), fun hu => row_put (.initEntryMode hu),
    fun hu => row_put (.initMode1 hu), fun hu => row_put (.initOutput hu), fun hu => row_put (.initMode2 hu),
    fun hu => row_put (.initOk hu)⟩

/-- The writes whose answer is held while the delay after them runs: CLEAR's, and INIT's at `upc` 7 (R86, R100). -/
def HoldsAnswer (i : Instr) (upc : Nat) : Prop := i = .clear ∨ (i = .init ∧ upc = 7)

section Answered

variable {i : Instr} {t : Table} {s : State}

/-- A held answer is kept, and the operation goes on in both outcomes. -/
theorem answered_held (ht : tableOf i = some t) (h : HoldsAnswer i s.upc) (a : Answer) :
    t.answered a s = (s.hold a).nextUpc := by
  obtain rfl | ⟨rfl, hu⟩ := h <;> cases ht
  · rfl
  · exact initTable_answered_held hu a

/-- Any other failed write ends the operation at once (R131). -/
theorem answered_err (ht : tableOf i = some t) (h : ¬ HoldsAnswer i s.upc) (e : BusErr) :
    t.answered (.err e) s = raise (.busError e) s := by
  cases i <;> cases ht
  case init => exact initTable_answered_other (by simpa [HoldsAnswer] using h) _
  case clear => exact absurd (.inl rfl) h
  all_goals rfl

/-- After any other write that answers `Ok` the operation goes on: WRITE_STR to its next byte (R108), else to the next
micro-step. -/
theorem answered_ok (ht : tableOf i = some t) (h : ¬ HoldsAnswer i s.upc) :
    t.answered .ok s = if isWriteStr i then s.nextSidx else s.nextUpc := by
  cases i <;> cases ht
  case init => exact initTable_answered_other (by simpa [HoldsAnswer] using h) _
  case clear => exact absurd (.inl rfl) h
  all_goals rfl

end Answered

/-- Settles O26: the frame that stands is answered, and the answer goes to the table of the running operation. -/
theorem standingWriteAnswerReachesItsOperation : Obligations.StandingWriteAnswerReachesItsOperation := by
  intro s f ph i a later hs hb hp hf ha
  obtain ⟨t, ht⟩ := tableOf_host (hs.running hb).host
  obtain ⟨m, ha', he⟩ : ∃ m, s.busAnswers = a :: answersAhead false m ∧
      exec i s = .next (t.answered a (answerWrite f a m s)) := by
    rw [exec_of_frameOf hf, transact_standing hp]
    rcases answerFrame_cases hp with ⟨h0, -, -⟩ | ⟨a', m, ha', he⟩
    · cases h0.symm.trans ha
    · obtain rfl : a' = a := (List.cons.inj (ha'.symm.trans ha)).1
      exact ⟨m, ha', by rw [he, react_running (s := answerWrite f a' m s) a' hb ht]⟩
  have hspent := spent_answered ht hp ha'
  have hlater : (t.answered a (answerWrite f a m s)).busAnswers = later := by
    simpa [ha, answersOf] using hspent.answers.symm
  obtain ⟨p, u, x, h, hframe, -⟩ := answered_cases ht a (answerWrite f a m s)
  refine ⟨_, he, hspent.trace, hlater, by rw [hframe]; exact hb, by rw [hframe]; rfl, by rw [hframe]; rfl,
    by rw [hframe]; rfl, by rw [hframe]; rfl, by rw [hframe]; rfl, exec_untouched he, ?_⟩
  split
  case isTrue hheld =>
    rw [answered_held ht (s := answerWrite f a m s) hheld]
    exact ⟨rfl, rfl, rfl, rfl⟩
  case isFalse hheld =>
    cases a with
    | err e =>
      rw [answered_err ht (s := answerWrite f (.err e) m s) hheld]
      exact ⟨rfl, rfl, rfl, rfl⟩
    | ok =>
      rw [answered_ok ht (s := answerWrite f .ok m s) hheld]
      cases isWriteStr s.op <;> exact ⟨rfl, rfl, rfl, rfl⟩

end Sys2Proof.Machine
end

section
/-! One micro-step of any operation whose request is answered at once, and an operation from its acceptance to its
response, as `Completed` has it. -/

namespace Sys2Proof.Machine

open Sys2Proof.Expect

section Rows

variable {i : Instr} {t : Table} {s : State} {m : Mode} {c : BitVec 3}

/-- A row that sends a frame, answered: the run goes on with what the table makes of the answer. -/
theorem run_write_row {f : Frame} {a : Answer} {later : List Answer} (ht : tableOf i = some t)
    (h : Row s i (.write f .offered) m c) (hp : s.pend = none) (ha : s.busAnswers = a :: later) :
    ∃ b, (∀ n, run t (n + 1) s = run t n (t.answered a (answerWrite f a b { s with mode := m, ctrl := c }))) ∧
      Spent s (t.answered a (answerWrite f a b { s with mode := m, ctrl := c })) [.write f a] := by
  have hput := spent_issue hp (fresh_write f) m c
  have ha := hput.answers.symm.trans ha
  obtain ⟨b, hb, hs⟩ := settle_write t (f := f) (ph := .offered) rfl ha
  refine ⟨b, fun n => run_goesOn t n ((issueIfFree_free t hp).trans (issue_of_row ht h)) hs, ?_⟩
  exact hput.trans (spent_answered ht (f := f) (ph := .offered) rfl (by rw [hb]; exact ha))

/-- A row that asks for a delay, which ends: the run goes on with what follows it. -/
theorem run_delay_row {d : Millis} (ht : tableOf i = some t) (h : Row s i (.delay d .offered) m c) (hp : s.pend = none)
    (hd : 0 < s.delayEnds) :
    ∃ b, (∀ n, run t (n + 1) s = run t n (t.delayOver (endDelay d b { s with mode := m, ctrl := c }))) ∧
      Spent s (t.delayOver (endDelay d b { s with mode := m, ctrl := c })) [.delay d] := by
  have hput := spent_issue hp (fresh_delay d) m c
  obtain ⟨k, hk⟩ : ∃ k, s.delayEnds = k + 1 := Nat.exists_eq_add_of_le' hd
  have hk := (hput.ends.trans (Nat.zero_add _)).symm.trans hk
  obtain ⟨b, hb, hs⟩ := settle_delay t (n := d) (ph := .offered) rfl hk
  refine ⟨b, fun n => run_goesOn t n ((issueIfFree_free t hp).trans (issue_of_row ht h)) hs, ?_⟩
  exact hput.trans (spent_delayOver ht (n := d) (ph := .offered) rfl (by rw [hb]; exact hk))

end Rows

/-- An instruction that comes to an idle state by the events `evs` and one response is completed by them. -/
theorem completed_of_spent {i : Instr} {s t : State} {evs : List Event} {r : Response} (he : exec i s = .next t)
    (hs : Spent s t (evs ++ [.rsp r])) (hq : responsesOf evs = 0) (hi : t.idle) : Completed s t evs r where
  toUntouched := exec_untouched he
  trace := hs.trace
  busAnswers := by simpa [answersOf] using hs.answers
  delayEnds := by simpa [delaysOf] using hs.ends
  rspTakes := by simpa [hq, responsesOf, Nat.add_comm] using hs.takes
  busy := hi.1
  pend := hi.2

/-- A run that comes to its response, put already or by the next row, completes its instruction, where the host takes
it. -/
theorem exec_completed {i : Instr} {t : Table} {s v w : State} {evs : List Event} {r : Response} {n : Nat}
    (he : exec i s = run t (n + 1) v) (hi : issueIfFree t v = some (raise r w)) (hs : Spent s (raise r w) evs)
    (hq : responsesOf evs = 0) (ht : TakesThere 1 s) :
    ∃ u, exec i s = .next u ∧ Completed s u evs r ∧ u.mode = w.mode ∧ u.ctrl = w.ctrl := by
  obtain ⟨k, hk⟩ : ∃ k, (raise r w).rspTakes = k + 1 :=
    Nat.exists_eq_add_of_le' (by have := hs.takes; simp only [TakesThere] at ht; omega)
  have hu : exec i s = .next (giveResponse r { raise r w with rspTakes := k }) := he.trans (run_gives hi hk n)
  exact ⟨_, hu, completed_of_spent hu (hs.trans (spent_response rfl hk)) hq ⟨rfl, rfl⟩, rfl, rfl⟩

end Sys2Proof.Machine
end

section
/-! INIT's outcomes by point of failure (InitSendsItsSequence, InitOutcomesByPointOfFailure): while the answers are `Ok`
INIT goes through its rows one by one and makes their events; its status follows from the row it has come to. -/

namespace Sys2Proof.Machine

open Sys2Proof.Expect

/-- The events of INIT's rows when all is well: that of the row `u` stands at place `u` (R86). -/
def initScript (s : State) : List Event :=
  [.delay 80#16,
    .write (lcdCmd s (0x20#8 ||| s.showFunction)) .ok, .delay 5#16,
    .write (lcdCmd s (0x20#8 ||| s.showFunction)) .ok, .delay 5#16,
    .write (lcdCmd s (0x20#8 ||| s.showFunction)) .ok,
    .write (lcdCmd s 0x0C#8) .ok,
    .write (lcdCmd s 0x01#8) .ok, .delay 2#16,
    .write (lcdCmd s 0x06#8) .ok,
    .write (rgbReg s 0x00#8 0x00#8) .ok, .write (rgbReg s 0x08#8 0xFF#8) .ok, .write (rgbReg s 0x01#8 0x20#8) .ok]

/-- The event of a request when all is well. -/
def Request.goesWell : Request → Option Event
  | .write f _ => some (.write f .ok)
  | .delay n _ => some (.delay n)
  | .response _ => none

/-- A request just put that has the event `e` when all is well is that write, or that delay. -/
theorem request_of_goesWell {q : Request} {e : Event} (hq : q.fresh) (h : q.goesWell = some e) :
    (∃ f, q = .write f .offered ∧ e = .write f .ok) ∨ ∃ n, q = .delay n .offered ∧ e = .delay n := by
  obtain ⟨hw, hd⟩ := hq
  rcases q with ⟨f, _ | _⟩ | ⟨n, _ | _⟩ | r <;> cases h
  · exact .inl ⟨f, rfl, rfl⟩
  · exact absurd rfl (hw f)
  · exact .inr ⟨n, rfl, rfl⟩
  · exact absurd rfl (hd n)

/-- INIT at the row `s.upc`, its request not yet put, with no failed write behind it: the clear write, whose answer is
held during the delay of `upc` 8, has answered `Ok`. -/
structure AtInitRow (s : State) : Prop where
  op : s.op = .init
  pend : s.pend = none
  ctrl : s.initCtrl = true
  held : s.upc = 8 → s.held = .ok

/-- CTRL where INIT puts the frame that turns the display on. -/
theorem AtInitRow.ctrl_zero {s : State} (h : AtInitRow s) (hu : s.upc = 6) : s.ctrl = 0#3 := by
  simpa [State.initCtrl, h.op, h.pend, hu] using h.ctrl

/-- Before its last row INIT puts a write or a delay, whose event is the row's in the script. -/
theorem AtInitRow.row {s : State} (h : AtInitRow s) (hu : s.upc < 13) :
    ∃ q m c, Row s .init q m c ∧ m = s.mode ∧ q.fresh ∧ q.goesWell = (initScript s)[s.upc]? := by
  obtain ⟨q, m, c, hr⟩ := row_of_le (i := .init) (s := s) rfl hu.le
  refine ⟨q, m, c, hr, ?_, (row_fresh hr).1, ?_⟩
  · cases hr with
    | initOk h13 => omega
    | _ => rfl
  · cases hr with
    | flag f n hi => cases f <;> cases hi
    | oneWriteOk hi => cases hi
    | initDisplayOn h6 => rw [h.ctrl_zero h6, h6]; rfl
    | initFunctionSet hu => rcases hu with hu | hu | hu <;> rw [hu] <;> rfl
    | initFunctionSetDelay hu => rcases hu with hu | hu <;> rw [hu] <;> rfl
    | initOk h13 => omega
    | _ => rename_i hu; rw [hu]; rfl

/-- INIT at the next row: CTRL as the row that was put has left it, and `held` as its answer has. -/
theorem AtInitRow.next {s : State} {q : Request} {m : Mode} {c : BitVec 3} (h : AtInitRow s) (hr : Row s .init q m c)
    {a : Answer} (ha : s.upc = 7 → a = .ok) (bm : List BusMove) (cm : List ClockMove) (tr : List Event) :
    AtInitRow { s with
      mode := m, ctrl := c, upc := s.upc + 1, held := a, pend := none, busMoves := bm, clockMoves := cm,
      trace := tr } where
  op := h.op
  pend := rfl
  ctrl := initCtrl_next (initCtrl_row (h.op ▸ hr) h.pend h.ctrl) (by simp) rfl rfl rfl rfl
  held := fun hu => ha (Nat.succ.inj hu)

/-- On `Ok` INIT goes on to its next row; the answer of the clear write is held (R86). -/
theorem initTable_answered_ok (s : State) :
    ∃ a, initTable.answered .ok s = (s.hold a).nextUpc ∧ (s.upc = 7 → a = .ok) := by
  by_cases hu : s.upc = 7
  · exact ⟨.ok, initTable_answered_held hu .ok, fun _ => rfl⟩
  · exact ⟨s.held, initTable_answered_other hu .ok, fun h => absurd h hu⟩

/-- After a delay INIT goes on to its next row, unless it holds an error. -/
theorem initTable_delayOver_ok {s : State} (h : s.upc = 8 → s.held = .ok) : initTable.delayOver s = s.nextUpc := by
  by_cases hu : s.upc = 8
  · rw [initTable_delayOver_held hu, h hu, tryAnswer_ok]
  · exact initTable_delayOver_other hu

/-- INIT puts its row and all is well: the event of the row, and the next row. -/
theorem AtInitRow.goes_on {s : State} {e : Event} (h : AtInitRow s) (he : (initScript s)[s.upc]? = some e)
    (ha : answersOf [e] <+: s.busAnswers) (hd : delaysOf [e] ≤ s.delayEnds) :
    ∃ w, (∀ n, run initTable (n + 1) s = run initTable n w) ∧ AtInitRow w ∧ w.upc = s.upc + 1 ∧ w.mode = s.mode ∧
      initScript w = initScript s ∧ Spent s w [e] := by
  have hu : s.upc < 13 := (List.getElem?_eq_some_iff.1 he).1
  obtain ⟨q, m, c, hr, hm, hfresh, hq⟩ := h.row hu
  obtain ⟨f, rfl, rfl⟩ | ⟨n, rfl, rfl⟩ := request_of_goesWell hfresh (hq.trans he)
  · obtain ⟨later, hlater⟩ := ha
    obtain ⟨b, hrun, hspent⟩ := run_write_row (i := .init) rfl hr h.pend hlater.symm
    obtain ⟨a, hans, ha7⟩ := initTable_answered_ok (answerWrite f .ok b { s with mode := m, ctrl := c })
    rw [hans] at hrun hspent
    exact ⟨_, hrun, h.next hr ha7 b s.clockMoves _, rfl, hm, rfl, hspent⟩
  · obtain ⟨b, hrun, hspent⟩ := run_delay_row (i := .init) rfl hr h.pend hd
    rw [initTable_delayOver_ok (s := endDelay n b { s with mode := m, ctrl := c }) h.held] at hrun hspent
    have h7 : s.upc = 7 → s.held = .ok := fun hu => by rw [hu] at he; cases he
    exact ⟨_, hrun, h.next hr h7 s.busMoves b _, rfl, hm, rfl, hspent⟩

/-- From `s`, at its first row, INIT has come to its row `u` in `v`, all being well on the way. -/
structure InitComesTo (s : State) (u : Nat) (v : State) : Prop extends AtInitRow v where
  run : ∀ n, run initTable (u + n) s = Machine.run initTable n v
  upc : v.upc = u
  mode : v.mode = s.mode
  script : initScript v = initScript s
  spent : Spent s v ((initScript s).take u)

/-- INIT comes as far as the answers are `Ok` and the delays end, by induction on the row. -/
theorem init_comes_to {s : State} (hs : AtInitRow s) (h0 : s.upc = 0) : ∀ u ≤ 13,
    answersOf ((initScript s).take u) <+: s.busAnswers → delaysOf ((initScript s).take u) ≤ s.delayEnds →
    ∃ v, InitComesTo s u v := by
  intro u
  induction u with
  | zero => exact fun _ _ _ => ⟨s, hs, fun n => by rw [Nat.zero_add], h0, rfl, rfl, .refl s⟩
  | succ u ih =>
    intro hu ha hd
    obtain ⟨e, he⟩ : ∃ e, (initScript s)[u]? = some e := ⟨_, List.getElem?_eq_getElem hu⟩
    have htake : (initScript s).take (u + 1) = (initScript s).take u ++ [e] := by rw [List.take_add_one, he]; rfl
    rw [htake, answersOf_append] at ha
    rw [htake, delaysOf_append] at hd
    obtain ⟨v, hv⟩ := ih (Nat.le_of_succ_le hu) ((List.prefix_append _ _).trans ha) (Nat.le_of_add_right_le hd)
    rw [hv.spent.answers, List.prefix_append_right_inj] at ha
    rw [hv.spent.ends, Nat.add_le_add_iff_left] at hd
    obtain ⟨w, hrun, hw, hwu, hwm, hws, hspent⟩ := hv.goes_on (by rw [hv.script, hv.upc, he]) ha hd
    exact ⟨w, hw, fun n => by rw [Nat.succ_add_eq_add_succ, hv.run, hrun], by rw [hwu, hv.upc], hwm.trans hv.mode,
      hws.trans hv.script, htake ▸ hv.spent.trans hspent⟩

/-- The state in which an idle block has accepted INIT. -/
def initAccepted (s : State) : State := (latch .init s).emit (.op .init)

/-- An idle Uninitialized block accepts INIT, and stands at its first row. -/
theorem init_accepted {s : State} (hs : s.idle) (hm : s.mode = .uninitialized) :
    exec .init s = run initTable 14 (initAccepted s) ∧ AtInitRow (initAccepted s) ∧
      Spent s (initAccepted s) [.op .init] := by
  have hacc : accept .uninitialized .init s = initAccepted s := accept_admitted hm
  refine ⟨(operate_idle hs.1 hs.2).trans (by rw [hacc]), ⟨rfl, hs.2, ?_, by simp [initAccepted]⟩, ?_⟩
  · simp [State.initCtrl, initAccepted, hs.2]
  · exact hacc ▸ spent_accept .uninitialized .init hs.2

/-- INIT accepted, it comes to the row `u`. -/
theorem init_runs_to {s : State} (hs : s.idle) (hm : s.mode = .uninitialized) {u : Nat} (hu : u ≤ 13)
    (ha : answersOf ((initScript s).take u) <+: s.busAnswers) (hd : delaysOf ((initScript s).take u) ≤ s.delayEnds) :
    ∃ v, exec .init s = run initTable (13 - u + 1) v ∧ AtInitRow v ∧ v.upc = u ∧ v.mode = .uninitialized ∧
      initScript v = initScript s ∧ Spent s v (.op .init :: (initScript s).take u) := by
  obtain ⟨he, hrow, hspent⟩ := init_accepted hs hm
  have ha' := hspent.answers
  have hd' := hspent.ends
  simp only [answersOf, delaysOf, List.nil_append, Nat.zero_add] at ha' hd'
  obtain ⟨v, hv⟩ := init_comes_to hrow rfl u hu (ha' ▸ ha) (hd' ▸ hd)
  refine ⟨v, ?_, hv.toAtInitRow, hv.upc, hv.mode.trans hm, hv.script, hspent.trans hv.spent⟩
  rw [he, ← hv.run]
  congr 1
  omega

/-- CTRL at INIT's last row (R86). -/
theorem AtInitRow.ctrl_last {s : State} (h : AtInitRow s) (hu : s.upc = 13) : s.ctrl = 0b100#3 := by
  simpa [State.initCtrl, h.op, h.pend, hu] using h.ctrl

/-- Settles O12: with nine `Ok` and four ends INIT comes to its last row, which puts OK. -/
theorem initSendsItsSequence : Obligations.InitSendsItsSequence := by
  intro s later hs hm hends htakes ha
  obtain ⟨v, he, hv, hu, -, -, hspent⟩ := init_runs_to hs hm (Nat.le_refl 13) ⟨later, ha.symm⟩ hends
  have hi : issueIfFree initTable v = some (raise .ok { v with mode := .ready }) :=
    (issueIfFree_free _ hv.pend).trans (issue_of_row (i := .init) rfl (.initOk hu))
  have hput := hspent.trans (spent_issue hv.pend (fresh_response .ok) .ready v.ctrl)
  obtain ⟨t, ht, hdone, hmode, hctrl⟩ := exec_completed he hi hput rfl htakes
  exact ⟨t, ht, hdone, hmode, hctrl.trans (hv.ctrl_last hu)⟩

/-- CTRL while a request of INIT stands: 000 before the display is turned on, then 100 (R86, R92). -/
theorem ctrl_of_standing_init {s : State} (ho : s.op = .init) (hp : s.pend ≠ none) (hc : s.initCtrl = true) :
    s.ctrl = if s.upc < 6 then 0b000#3 else 0b100#3 := by
  simp only [State.initCtrl, Bool.or_eq_true, Bool.and_eq_true, bne_iff_ne, beq_iff_eq, decide_eq_true_eq] at hc
  obtain ((h | ⟨-, h⟩) | ⟨⟨hle, h0⟩, h6⟩) | ⟨⟨hle, h4⟩, -⟩ := hc
  · exact absurd ho h
  · exact absurd h hp
  · rw [h0, if_pos (Nat.lt_of_le_of_ne hle (h6.resolve_right hp))]
  · rw [h4, if_neg (Nat.not_lt.2 hle)]

/-- A write of INIT at its row, and CTRL with the write put. -/
theorem AtInitRow.write_row {s : State} {f : Frame} (h : AtInitRow s)
    (he : (initScript s)[s.upc]? = some (.write f .ok)) :
    ∃ c, Row s .init (.write f .offered) s.mode c ∧ c = if s.upc < 6 then 0b000#3 else 0b100#3 := by
  have hu : s.upc < 13 := (List.getElem?_eq_some_iff.1 he).1
  obtain ⟨q, m, c, hr, rfl, hfresh, hq⟩ := h.row hu
  obtain ⟨f', rfl, hf⟩ | ⟨_, -, hf⟩ := request_of_goesWell hfresh (hq.trans he) <;> cases hf
  have hput := initCtrl_row (h.op ▸ hr) h.pend h.ctrl
  exact ⟨c, hr, ctrl_of_standing_init (s := { s with pend := some _, mode := s.mode, ctrl := c }) h.op (by simp) hput⟩

/-- After the 2 ms INIT aborts with the error that its clear write answered (R88). -/
theorem init_clear_delay_aborts {s : State} {e : BusErr} (hu : s.upc = 8) (hh : s.held = .err e) (hp : s.pend = none)
    (hd : 0 < s.delayEnds) :
    ∃ w, (∀ n, run initTable (n + 1) s = run initTable n (raise (.busError e) w)) ∧
      Spent s (raise (.busError e) w) [.delay 2#16] ∧ w.mode = s.mode ∧ w.ctrl = s.ctrl := by
  obtain ⟨b, hrun, hspent⟩ := run_delay_row (i := .init) rfl (.initClearDelay hu) hp hd
  have habort : initTable.delayOver (endDelay Config.tClear b s) =
      raise (.busError e) (endDelay Config.tClear b s) := by
    rw [initTable_delayOver_held (s := endDelay Config.tClear b s) hu, endDelay_held, hh, tryAnswer_err]
  exact ⟨_, fun n => (hrun n).trans (congrArg _ habort), habort ▸ hspent, rfl, rfl⟩

/-- A failed write of INIT: BUS_ERROR at once, or after the 2 ms that follow the clear write (R88). -/
theorem AtInitRow.aborts {s : State} {f : Frame} {e : BusErr} {later : List Answer} (h : AtInitRow s)
    (he : (initScript s)[s.upc]? = some (.write f .ok)) (ha : s.busAnswers = .err e :: later)
    (hd : s.upc = 7 → 0 < s.delayEnds) :
    ∃ w n, run initTable (13 - s.upc + 1) s = run initTable (n + 1) (raise (.busError e) w) ∧
      Spent s (raise (.busError e) w) ([.write f (.err e)] ++ if s.upc = 7 then [.delay 2#16] else []) ∧
      w.mode = s.mode ∧ w.ctrl = if s.upc < 6 then 0b000#3 else 0b100#3 := by
  have hu : s.upc < 13 := (List.getElem?_eq_some_iff.1 he).1
  obtain ⟨c, hr, hc⟩ := h.write_row he
  obtain ⟨b, hrun, hspent⟩ := run_write_row (i := .init) rfl hr h.pend ha
  by_cases h7 : s.upc = 7
  · rw [initTable_answered_held (s := answerWrite f (.err e) b { s with mode := s.mode, ctrl := c }) h7] at hrun hspent
    obtain ⟨w, hrun', hspent', hwm, hwc⟩ := init_clear_delay_aborts
      (s := ((answerWrite f (.err e) b { s with mode := s.mode, ctrl := c }).hold (.err e)).nextUpc)
      (congrArg Nat.succ h7) rfl rfl (by simpa [hspent.ends, delaysOf] using hd h7)
    refine ⟨w, 4, ?_, ?_, hwm, hwc.trans hc⟩
    · rw [h7, hrun, hrun']
    · rw [if_pos h7]
      exact hspent.trans hspent'
  · rw [initTable_answered_other (s := answerWrite f (.err e) b { s with mode := s.mode, ctrl := c }) h7,
      tryAnswer_err] at hrun hspent
    refine ⟨answerWrite f (.err e) b { s with mode := s.mode, ctrl := c }, 12 - s.upc, ?_, ?_, rfl, hc⟩
    · rw [hrun, show 13 - s.upc = 12 - s.upc + 1 by omega]
    · rw [if_neg h7]
      exact hspent

/-- The `k`-th of INIT's writes stands at some row of its script, after the events that R92 gives it. -/
theorem initScript_write {s : State} (hsf : s.showFunction = 0x08#8) {k : Nat} (hk : k < 9) :
    ∃ u f, (initScript s)[u]? = some (.write f .ok) ∧ (initFrames s)[k]? = some f ∧
      (initScript s).take u = initOk s k ∧ (u = 7 ↔ k = 4) ∧ (u < 6 ↔ k < 3) := by
  have h28 : initScript s = initOk s 9 := by simp only [initScript, hsf]; rfl
  rw [h28]
  refine ⟨(writeRows .init).getD k 0, (initFrames s)[k], ?_⟩
  interval_cases k <;> exact ⟨rfl, rfl, rfl, by decide, by decide⟩

/-- The answers and the delays before INIT's `k`-th write: 80 ms, twice 5 ms, and 2 ms after the clear write,
write 4; and no response. -/
theorem initOk_takes (s : State) {k : Nat} (hk : k < 9) :
    answersOf (initOk s k) = List.replicate k .ok ∧
      delaysOf (initOk s k) = (min (k + 1) 3 + if 4 < k then 1 else 0) ∧ responsesOf (initOk s k) = 0 := by
  interval_cases k <;> exact ⟨rfl, rfl, rfl⟩

/-- Settles O11: INIT comes to the row of the write that fails first, and aborts there; with no failure it is
InitSendsItsSequence. -/
theorem initOutcomesByPointOfFailure : Obligations.InitOutcomesByPointOfFailure := by
  intro s hs hm hsf hends htakes
  refine ⟨fun later ha => ?_, fun k e later hk ha => ?_⟩
  · have h := initSendsItsSequence s later hs hm hends htakes ha
    rw [hsf] at h
    exact h
  · obtain ⟨u, f, he, hf, htake, h7, h6⟩ := initScript_write hsf hk
    obtain ⟨hans, hdel, hrsp⟩ := initOk_takes s hk
    have hdel : delaysOf (initOk s k) + (if k = 4 then 1 else 0) ≤ s.delayEnds := by
      have : 4 ≤ s.delayEnds := hends
      split_ifs at hdel ⊢ <;> omega
    obtain ⟨v, hexec, hv, rfl, hmode, hscript, hspent⟩ := init_runs_to hs hm
      (List.getElem?_eq_some_iff.1 he).1.le (by rw [htake, hans, ha]; exact List.prefix_append _ _)
      (by rw [htake]; exact Nat.le_of_add_right_le hdel)
    rw [htake] at hspent
    have hvans : v.busAnswers = .err e :: later := by
      have := hspent.answers
      rwa [ha, answersOf, hans, List.append_cancel_left_eq, eq_comm] at this
    have hvends : v.upc = 7 → 0 < v.delayEnds := by
      intro hu
      have := hspent.ends
      rw [if_pos (h7.1 hu), this, delaysOf] at hdel
      omega
    obtain ⟨w, n, hrun, habort, hwm, hwc⟩ := hv.aborts (hscript ▸ he) hvans hvends
    simp only [h7, h6] at habort hwc
    have hquiet : responsesOf
        (.op .init :: initOk s k ++ ([.write f (.err e)] ++ if k = 4 then [.delay 2#16] else [])) = 0 := by
      split <;> simp [responsesOf, hrsp]
    obtain ⟨t, ht, hdone, htm, htc⟩ := exec_completed (hexec.trans hrun) rfl (hspent.trans habort) hquiet htakes
    exact ⟨t, ht, by simpa [initFailed, hf] using hdone, htm.trans (hwm.trans hmode), htc.trans hwc⟩

end Sys2Proof.Machine
end

section
/-! The rows of the other operations put one by one, and an illegal byte's response standing
(ManyStepRowsPutTheirRequests, OneWriteRowsPutTheirRequests). -/

namespace Sys2Proof.Machine

open Sys2Proof.Expect

/-- A running operation with nothing at its ports puts the request of its row and, with no move of the environment,
waits there. -/
theorem exec_puts_row {i : Instr} {s : State} {q : Request} {m : Mode} {c : BitVec 3} (hl : i.layer = .host)
    (hb : s.busy = true) (ho : s.op = i) (hp : s.pend = none) (hs : silent s) (h : Row s i q m c) :
    exec i s = .next { s with pend := some q, mode := m, ctrl := c } := by
  obtain ⟨hm, hc, hr⟩ := hs
  obtain ⟨t, ht⟩ := tableOf_host hl
  exact exec_row hl ht hb ho hp hm hc hr (issue_of_row ht h)

/-- Settles O14: each row of the three tables puts its request, and the operation waits there. -/
theorem manyStepRowsPutTheirRequests : Obligations.ManyStepRowsPutTheirRequests := by
  intro s hb hp hs
  have row_put : ∀ {i q m c}, i.layer = .host → s.op = i → Row s i q m c →
      exec i s = .next { s with pend := some q, mode := m, ctrl := c } :=
    fun hl ho h => exec_puts_row hl hb ho hp hs h
  refine ⟨fun ho => ⟨?clearWrite, ?clearDelay, ?clearStatus⟩, fun r g b ho => ⟨?red, ?green, ?blue, ?rgbOk⟩,
    fun str ho hu => ⟨fun c hc => ?strByte, fun hlen => ?strOk⟩⟩
  case clearWrite => exact fun hu => row_put rfl ho (.clearWrite hu)
  case clearDelay => exact fun hu => row_put rfl ho (.clearDelay hu)
  case clearStatus => exact fun hu => row_put rfl ho (.clearStatus hu)
  case red => exact fun hu => row_put rfl ho (.red r g b hu)
  case green => exact fun hu => row_put rfl ho (.green r g b hu)
  case blue => exact fun hu => row_put rfl ho (.blue r g b hu)
  case rgbOk => exact fun hu => row_put rfl ho (.rgbOk r g b hu)
  case strByte => exact row_put rfl ho (.strByte str c hc hu)
  case strOk => exact row_put rfl ho (.strOk str (List.getElem?_eq_none hlen) hu)

/-- The control byte after a write of a flag, flag by flag (R55, R105). -/
theorem crValue_crUpdate (f : Flag) (n : Bool) (ctrl : BitVec 3) :
    crValue (crUpdate f n ctrl) = controlByte (if .displayOn = f then n else ctrl.getLsbD 2)
      (if .cursorOn = f then n else ctrl.getLsbD 1) (if .blinkOn = f then n else ctrl.getLsbD 0) := by
  rw [crValue_eq_controlByte]
  congr 1
  · exact crUpdate_flag f .displayOn n ctrl
  · exact crUpdate_flag f .cursorOn n ctrl
  · exact crUpdate_flag f .blinkOn n ctrl

theorem crValue_crUpdate_displayOn (n : Bool) (ctrl : BitVec 3) :
    crValue (crUpdate .displayOn n ctrl) = controlByte n (ctrl.getLsbD 1) (ctrl.getLsbD 0) :=
  crValue_crUpdate .displayOn n ctrl

theorem crValue_crUpdate_cursorOn (n : Bool) (ctrl : BitVec 3) :
    crValue (crUpdate .cursorOn n ctrl) = controlByte (ctrl.getLsbD 2) n (ctrl.getLsbD 0) :=
  crValue_crUpdate .cursorOn n ctrl

theorem crValue_crUpdate_blinkOn (n : Bool) (ctrl : BitVec 3) :
    crValue (crUpdate .blinkOn n ctrl) = controlByte (ctrl.getLsbD 2) (ctrl.getLsbD 1) n :=
  crValue_crUpdate .blinkOn n ctrl

/-- A response that the host does not take stands (R162). -/
theorem settle_response_untaken (t : Table) {s : State} {r : Response} (hp : s.pend = some (.response r))
    (hr : s.rspTakes = 0) : settle t s = .waits s := by
  simp [settle, takeRequest, hp, hr]

/-- The illegal byte's meaning where the host does not take the response (R133). -/
theorem exec_illegal_untaken {b : Byte} {s : State} (hs : s.idle) (hr : s.rspTakes = 0) :
    exec (.illegal b) s = .next (raise .illegalCommand (latch (.illegal b) s)) :=
  (operate_idle hs.1 hs.2).trans
    (run_waits _ 0 (issueIfFree_standing _ rfl) (settle_response_untaken _ (r := .illegalCommand) rfl hr))

/-- Settles O15: at `upc` 0 the row writes, at `upc` 1 it responds; and an illegal byte responds at once. -/
theorem oneWriteRowsPutTheirRequests : Obligations.OneWriteRowsPutTheirRequests := by
  refine ⟨fun s hb hp hs => ⟨fun hu => ?writes, fun hu => ?responds⟩, fun s b hs hr => exec_illegal_untaken hs hr⟩
  case writes =>
    have row_put : ∀ {i q m c}, i.layer = .host → s.op = i → Row s i q m c →
        exec s.op s = .next { s with pend := some q, mode := m, ctrl := c } :=
      fun hl ho h => ho ▸ exec_puts_row hl hb ho hp hs h
    refine ⟨fun col w ho => row_put rfl ho (.cursorPosition col w hu), fun n ho => ?_, fun n ho => ?_, fun n ho => ?_,
      fun c ho => row_put rfl ho (.char c hu)⟩
    · exact crValue_crUpdate_displayOn n s.ctrl ▸ row_put rfl ho (.flag .displayOn n rfl hu)
    · exact crValue_crUpdate_cursorOn n s.ctrl ▸ row_put rfl ho (.flag .cursorOn n rfl hu)
    · exact crValue_crUpdate_blinkOn n s.ctrl ▸ row_put rfl ho (.flag .blinkOn n rfl hu)
  case responds =>
    have ok_put : ∀ {i}, i.layer = .host → lastRow i = 1 → s.op = i → exec s.op s = .next (responds .ok s) :=
      fun hl h1 ho => ho ▸ exec_puts_row hl hb ho hp hs (.oneWriteOk h1 hu)
    refine ⟨fun col w ho => ok_put rfl rfl ho, fun n ho => ?_, fun c ho => ok_put rfl rfl ho⟩
    obtain ho | ho | ho := ho <;> exact ok_put rfl rfl ho

end Sys2Proof.Machine
end

section
/-! The display operations from acceptance to response (ClearWritesThenAlwaysDelays to WriteStrSendsInOrder; R100 to R110):
acceptance or refusal, then CLEAR's held write, one write whose answer is the status, or a series of writes that stops at
the first failure. -/

namespace Sys2Proof.Machine

open Sys2Proof.Expect

/-- The state in which an idle block has accepted `i` in the mode that admits it. -/
def accepted (i : Instr) (s : State) : State := (latch i s).emit (.op i)

/-! ## Acceptance, refusal, response -/

section Accepted

variable {i : Instr} {t : Table} {s : State} {m : Mode}

/-- An instruction that a mode admits is an operation of the host. -/
theorem host_of_requiredMode (hm : requiredMode i = some m) : i.layer = .host :=
  host_of_isOperation (by rw [← isSome_requiredMode, hm]; rfl)

/-- A host operation's meaning at an idle block is the run of its table from its acceptance. -/
theorem exec_accept (ht : tableOf i = some t) (hm : requiredMode i = some m) (hs : s.idle) :
    exec i s = run t (microSteps i) (accept m i s) := by
  obtain ⟨t', acc, ht', he, ⟨m', hm', rfl⟩ | ⟨hm', -⟩⟩ := exec_operates i (host_of_requiredMode hm)
  · cases ht.symm.trans ht'
    cases hm.symm.trans hm'
    exact (he s).trans (operate_idle hs.1 hs.2)
  · cases hm.symm.trans hm'

/-- In the mode that admits it the operation begins at its first row. -/
theorem exec_admitted (ht : tableOf i = some t) (hm : requiredMode i = some m) (hs : s.idle) (h : s.mode = m) :
    exec i s = run t (microSteps i) (accepted i s) ∧ Spent s (accepted i s) [.op i] := by
  have hacc : accept m i s = accepted i s := accept_admitted h
  exact ⟨hacc ▸ exec_accept ht hm hs, hacc ▸ spent_accept m i hs.2⟩

/-- In the other mode the operation is refused (R110, R132). -/
theorem refused_of_mode (hm : requiredMode i = some m) (hs : s.idle) (h : s.mode ≠ m) (htakes : TakesThere 1 s) :
    Refused i s := by
  obtain ⟨t, ht⟩ := tableOf_host (host_of_requiredMode hm)
  obtain ⟨k, hk⟩ : ∃ k, microSteps i = k + 1 := by cases i <;> exact ⟨_, rfl⟩
  have hacc : accept m i s = raise .invalidState (accepted i s) := accept_refused h
  have he := exec_accept ht hm hs
  have hspent := spent_accept m i hs.2
  rw [hk, hacc] at he
  rw [hacc] at hspent
  exact exec_completed (w := accepted i s) he rfl hspent rfl htakes

/-- An operation that has come to the row of its response is completed by it, where the host takes it. -/
theorem exec_completed_row {v : State} {evs : List Event} {r : Response} {n : Nat} (ht : tableOf i = some t)
    (he : exec i s = run t (n + 1) v) (hr : Row v i (.response r) v.mode v.ctrl) (hp : v.pend = none)
    (hs : Spent s v evs) (hq : responsesOf evs = 0) (htakes : TakesThere 1 s) :
    ∃ u, exec i s = .next u ∧ Completed s u evs r ∧ u.mode = v.mode ∧ u.ctrl = v.ctrl := by
  have hput : Spent s (raise r v) (evs ++ []) := hs.trans (spent_issue hp (fresh_response r) v.mode v.ctrl)
  rw [List.append_nil] at hput
  exact exec_completed he ((issueIfFree_free t hp).trans (issue_of_row ht hr)) hput hq htakes

end Accepted

/-! ## One write -/

section Writes

variable {i : Instr} {t : Table} {s : State} {f : Frame} {m : Mode} {c : BitVec 3} {later : List Answer}

theorem not_holdsAnswer (hc : i ≠ .clear) (hi : i ≠ .init) (u : Nat) : ¬ HoldsAnswer i u := by
  simp [HoldsAnswer, hc, hi]

/-- After a write that answers `Ok`: WRITE_STR at its next byte, any other operation at its next row (R108, R120). -/
def afterOk (i : Instr) (s : State) : State := if isWriteStr i then s.nextSidx else s.nextUpc

theorem afterOk_of_other (h : isWriteStr i = false) (s : State) : afterOk i s = s.nextUpc := by simp [afterOk, h]

theorem afterOk_keeps (i : Instr) (s : State) :
    (afterOk i s).pend = s.pend ∧ (afterOk i s).mode = s.mode ∧ (afterOk i s).ctrl = s.ctrl := by
  unfold afterOk
  split <;> exact ⟨rfl, rfl, rfl⟩

/-- A write that answers `Ok`: the operation goes on. -/
theorem run_write_ok (ht : tableOf i = some t) (hh : ¬ HoldsAnswer i s.upc) (h : Row s i (.write f .offered) m c)
    (hp : s.pend = none) (ha : s.busAnswers = .ok :: later) :
    ∃ b, (∀ n, run t (n + 1) s = run t n (afterOk i (answerWrite f .ok b { s with mode := m, ctrl := c }))) ∧
      Spent s (afterOk i (answerWrite f .ok b { s with mode := m, ctrl := c })) [.write f .ok] := by
  obtain ⟨b, hrun, hspent⟩ := run_write_row ht h hp ha
  rw [answered_ok ht (s := answerWrite f .ok b { s with mode := m, ctrl := c }) hh] at hrun hspent
  exact ⟨b, hrun, hspent⟩

/-- A write that fails: BUS_ERROR stands at once (R131). -/
theorem run_write_err {e : BusErr} (ht : tableOf i = some t) (hh : ¬ HoldsAnswer i s.upc)
    (h : Row s i (.write f .offered) m c) (hp : s.pend = none) (ha : s.busAnswers = .err e :: later) :
    ∃ w, (∀ n, run t (n + 1) s = run t n (raise (.busError e) w)) ∧
      Spent s (raise (.busError e) w) [.write f (.err e)] ∧ w.mode = m ∧ w.ctrl = c := by
  obtain ⟨b, hrun, hspent⟩ := run_write_row ht h hp ha
  rw [answered_err ht (s := answerWrite f (.err e) b { s with mode := m, ctrl := c }) hh] at hrun hspent
  exact ⟨_, hrun, hspent, rfl, rfl⟩

end Writes

/-! ## CLEAR -/

/-- CLEAR's write and delay: the answer of the write is held, and the row of the status is reached in both outcomes. -/
theorem run_clear {s : State} {a : Answer} {later : List Answer} (hu : s.upc = 0) (hp : s.pend = none)
    (ha : s.busAnswers = a :: later) (hd : 0 < s.delayEnds) :
    ∃ w, (∀ n, run clearTable (n + 2) s = run clearTable n w) ∧
      Spent s w [.write (lcdCmd s 0x01#8) a, .delay 2#16] ∧ w.upc = 2 ∧ w.held = a ∧ w.pend = none ∧
      w.mode = s.mode ∧ w.ctrl = s.ctrl := by
  obtain ⟨b, hwrite, hspent⟩ := run_write_row (i := .clear) rfl (.clearWrite hu) hp ha
  rw [answered_held (i := .clear) rfl (.inl rfl)] at hwrite hspent
  obtain ⟨b', hdelay, hspent'⟩ := run_delay_row (i := .clear) rfl (.clearDelay (congrArg Nat.succ hu)) rfl
    (by simpa [hspent.ends, delaysOf] using hd)
  exact ⟨_, fun n => (hwrite (n + 1)).trans (hdelay n), hspent.trans hspent', congrArg (· + 2) hu, rfl, rfl, rfl, rfl⟩

/-- Settles O16: the answer of the write is held while the delay runs, and is the status. -/
theorem clearWritesThenAlwaysDelays : Obligations.ClearWritesThenAlwaysDelays := by
  refine ⟨rfl, fun s hs htakes => ⟨fun hm hends a later ha => ?_, fun hm => ?_⟩⟩
  · obtain ⟨he, hacc⟩ := exec_admitted (i := .clear) rfl rfl hs hm
    have hd := Nat.lt_of_lt_of_eq hends (hacc.ends.trans (Nat.zero_add _))
    obtain ⟨w, hrun, hspent, hwu, rfl, hwp, hwm, hwc⟩ := run_clear (s := accepted .clear s) rfl hs.2
      (hacc.answers.symm.trans ha) hd
    obtain ⟨u, hu, hdone, hum, huc⟩ := exec_completed_row rfl (he.trans (hrun 1)) (.clearStatus hwu) hwp
      (hacc.trans hspent) rfl htakes
    exact ⟨u, hu, hdone, (hum.trans hwm).trans hm, huc.trans hwc⟩
  · exact refused_of_mode rfl hs (by simp [hm]) htakes

/-! ## The operations of one write -/

/-- The operations with two rows are admitted only while Ready, and hold no answer. -/
theorem oneWrite_operation {i : Instr} (h : lastRow i = 1) :
    requiredMode i = some .ready ∧ microSteps i = 2 ∧ isWriteStr i = false ∧ ∀ u, ¬ HoldsAnswer i u := by
  cases i <;> cases h <;> exact ⟨rfl, rfl, rfl, not_holdsAnswer (by simp) (by simp)⟩

/-- An operation of two rows whose first one sends `f` and leaves `c` in CTRL is one write of `f`, while Ready. -/
theorem oneWrite_of_row {i : Instr} {s : State} {f : Frame} {c : BitVec 3} (h : lastRow i = 1)
    (hr : Row (accepted i s) i (.write f .offered) s.mode c) (hs : s.idle) (hm : s.mode = .ready)
    (htakes : TakesThere 1 s) : OneWrite i f c s := by
  intro a later ha
  obtain ⟨hreq, hn, hstr, hh⟩ := oneWrite_operation h
  obtain ⟨t, ht⟩ := tableOf_host (host_of_requiredMode hreq)
  obtain ⟨he, hacc⟩ := exec_admitted ht hreq hs hm
  rw [hn] at he
  have ha := hacc.answers.symm.trans ha
  cases a with
  | ok =>
    obtain ⟨b, hrun, hspent⟩ := run_write_ok ht (hh _) hr hs.2 ha
    rw [afterOk_of_other hstr] at hrun hspent
    exact exec_completed_row ht (he.trans (hrun 1)) (.oneWriteOk h rfl) rfl (hacc.trans hspent) rfl htakes
  | err e =>
    obtain ⟨w, hrun, hspent, hwm, hwc⟩ := run_write_err ht (hh _) hr hs.2 ha
    obtain ⟨u, hu, hdone, hum, huc⟩ := exec_completed (he.trans (hrun 1)) rfl (hacc.trans hspent) rfl htakes
    exact ⟨u, hu, hdone, hum.trans hwm, huc.trans hwc⟩

/-- The same with the other mode, in which the operation is refused. -/
theorem oneWrite_or_refused {i : Instr} {s : State} {f : Frame} {c : BitVec 3} (h : lastRow i = 1)
    (hr : Row (accepted i s) i (.write f .offered) s.mode c) (hs : s.idle) (htakes : TakesThere 1 s) :
    (s.mode = .ready → OneWrite i f c s) ∧ (s.mode = .uninitialized → Refused i s) :=
  ⟨fun hm => oneWrite_of_row h hr hs hm htakes,
    fun hm => refused_of_mode (oneWrite_operation h).1 hs (by simp [hm]) htakes⟩

/-- Settles O17: the row's frame carries the OR byte. -/
theorem setCursorPositionSendsTheOr : Obligations.SetCursorPositionSendsTheOr :=
  fun col w _ => ⟨by cases w <;> rfl, oneWrite_or_refused rfl (.cursorPosition col w rfl)⟩

/-- Settles O21: the row's frame carries the code. -/
theorem writeCharSendsTheCode : Obligations.WriteCharSendsTheCode :=
  fun c _ => ⟨rfl, oneWrite_or_refused rfl (.char c rfl)⟩

/-! ## The flag operations -/

/-- A flag operation writes its flag and sends the whole control byte, whatever the flag was (R105). -/
theorem flagOperation_oneWrite_or_refused (f : Flag) (n : Bool) {s : State} (hs : s.idle) (htakes : TakesThere 1 s) :
    (s.mode = .ready →
      OneWrite (flagOperation f n) (lcdCmd s (crValue (crUpdate f n s.ctrl))) (crUpdate f n s.ctrl) s) ∧
    (s.mode = .uninitialized → Refused (flagOperation f n) s) :=
  oneWrite_or_refused (by cases f <;> rfl) (.flag f n rfl rfl) hs htakes

theorem crUpdate_displayOn (n : Bool) (ctrl : BitVec 3) :
    crUpdate .displayOn n ctrl = BitVec.ofBool n ++ ctrl.extractLsb' 0 2 := by
  revert n ctrl; decide

theorem crUpdate_cursorOn (n : Bool) (ctrl : BitVec 3) : crUpdate .cursorOn n ctrl =
    BitVec.ofBool (ctrl.getLsbD 2) ++ BitVec.ofBool n ++ BitVec.ofBool (ctrl.getLsbD 0) := by
  revert n ctrl; decide

theorem crUpdate_blinkOn (n : Bool) (ctrl : BitVec 3) :
    crUpdate .blinkOn n ctrl = ctrl.extractLsb' 1 2 ++ BitVec.ofBool n := by
  revert n ctrl; decide

/-- Settles O18: CTRL with D written, and the control byte of it. -/
theorem setDisplaySetsDAndResends : Obligations.SetDisplaySetsDAndResends := by
  refine fun n s => ⟨by cases n <;> rfl, fun hs htakes => ?_⟩
  rw [← crValue_crUpdate_displayOn, ← crUpdate_displayOn]
  exact flagOperation_oneWrite_or_refused .displayOn n hs htakes

/-- Settles O19: CTRL with C written, and the control byte of it. -/
theorem setCursorSetsCAndResends : Obligations.SetCursorSetsCAndResends := by
  refine fun n s => ⟨by cases n <;> rfl, fun hs htakes => ?_⟩
  rw [← crValue_crUpdate_cursorOn, ← crUpdate_cursorOn]
  exact flagOperation_oneWrite_or_refused .cursorOn n hs htakes

/-- Settles O20: CTRL with B written, and the control byte of it. -/
theorem setBlinkSetsBAndResends : Obligations.SetBlinkSetsBAndResends := by
  refine fun n s => ⟨by cases n <;> rfl, fun hs htakes => ?_⟩
  rw [← crValue_crUpdate_blinkOn, ← crUpdate_blinkOn]
  exact flagOperation_oneWrite_or_refused .blinkOn n hs htakes

/-! ## Series of writes -/

/-- The rows of `i` from `v` on put the frames `fs`, one after another where each is answered `Ok`, and then the
response OK; none of them touches MODE or CTRL. -/
def WritesOut (i : Instr) : List Frame → State → Prop
  | [], v => Row v i (.response .ok) v.mode v.ctrl
  | f :: fs, v => Row v i (.write f .offered) v.mode v.ctrl ∧
      ∀ b, WritesOut i fs (afterOk i (answerWrite f .ok b v))

/-- From `s` the run of `t` has come to `w` by the events `evs` in `k` micro-steps, with MODE and CTRL unchanged. -/
structure ComesTo (t : Table) (s : State) (k : Nat) (evs : List Event) (w : State) : Prop where
  run : ∀ n, run t (k + n) s = Machine.run t n w
  spent : Spent s w evs
  mode : w.mode = s.mode
  ctrl : w.ctrl = s.ctrl

section Series

variable {i : Instr} {t : Table}

/-- The series comes as far as the answers are `Ok`, by induction on the frames sent. -/
theorem WritesOut.comesTo (ht : tableOf i = some t) (hh : ∀ u, ¬ HoldsAnswer i u) {rest : List Frame}
    {later : List Answer} : ∀ {done : List Frame} {s : State}, WritesOut i (done ++ rest) s → s.pend = none →
    s.busAnswers = List.replicate done.length .ok ++ later →
    ∃ w, ComesTo t s done.length (writesOk done) w ∧ WritesOut i rest w ∧ w.pend = none := by
  intro done
  induction done with
  | nil => exact fun {s} h hp _ => ⟨s, ⟨fun n => by simp, .refl s, rfl, rfl⟩, h, hp⟩
  | cons f done ih =>
    rintro s ⟨hr, hnext⟩ hp ha
    obtain ⟨b, hrun, hspent⟩ := run_write_ok ht (hh _) hr hp ha
    obtain ⟨hvp, hvm, hvc⟩ := afterOk_keeps i (answerWrite f .ok b s)
    have ha' := (List.cons.inj (hspent.answers.symm.trans ha)).2
    obtain ⟨w, hw, hrest, hwp⟩ := ih (hnext b) hvp ha'
    refine ⟨w, ⟨fun n => ?_, hspent.trans hw.spent, hw.mode.trans hvm, hw.ctrl.trans hvc⟩, hrest, hwp⟩
    rw [List.length_cons, Nat.add_right_comm, hrun, hw.run]

theorem responsesOf_writesOk (fs : List Frame) : responsesOf (writesOk fs) = 0 := by
  induction fs with
  | nil => rfl
  | cons f fs ih => exact ih

theorem answersOf_writesOk (fs : List Frame) : answersOf (writesOk fs) = List.replicate fs.length .ok := by
  induction fs with
  | nil => rfl
  | cons f fs ih => exact congrArg (.ok :: ·) ih

/-- An operation whose rows put a series of writes, while Ready: all of them, or those to the first that fails. -/
theorem manyWrites_of_writesOut {s : State} {fs : List Frame} (ht : tableOf i = some t)
    (hreq : requiredMode i = some .ready) (hh : ∀ u, ¬ HoldsAnswer i u) (hn : microSteps i = fs.length + 1)
    (h : WritesOut i fs (accepted i s)) (hs : s.idle) (hm : s.mode = .ready) (htakes : TakesThere 1 s) :
    ManyWrites i fs s := by
  obtain ⟨he, hacc⟩ := exec_admitted ht hreq hs hm
  rw [hn] at he
  refine ⟨fun later ha => ?_, fun done f rest e later hfs ha => ?_⟩
  · rw [← List.append_nil fs] at h
    obtain ⟨w, hw, hrow, hwp⟩ := h.comesTo ht hh hs.2 (hacc.answers.symm.trans ha)
    obtain ⟨u, hu, hdone, hum, huc⟩ := exec_completed_row ht (he.trans (hw.run 1)) hrow hwp (hacc.trans hw.spent)
      (responsesOf_writesOk fs) htakes
    exact ⟨u, hu, hdone, hum.trans hw.mode, huc.trans hw.ctrl⟩
  · subst hfs
    have ha := hacc.answers.symm.trans ha
    obtain ⟨w, hw, ⟨hrow, -⟩, hwp⟩ := h.comesTo ht hh hs.2 ha
    have hwa : w.busAnswers = .err e :: later := by
      have := hw.spent.answers.symm.trans ha
      rwa [answersOf_writesOk, List.append_cancel_left_eq] at this
    obtain ⟨v, hrun, hspent, hvm, hvc⟩ := run_write_err ht (hh _) hrow hwp hwa
    have hsteps : (done ++ f :: rest).length + 1 = done.length + (rest.length + 1 + 1) := by
      simp [Nat.add_assoc]
    rw [hsteps, hw.run, hrun] at he
    obtain ⟨u, hu, hdone, hum, huc⟩ := exec_completed he rfl (hacc.trans (hw.spent.trans hspent))
      (by simp [responsesOf, responsesOf_writesOk]) htakes
    exact ⟨u, hu, hdone, (hum.trans hvm).trans hw.mode, (huc.trans hvc).trans hw.ctrl⟩

end Series

/-! ## WRITE_STR -/

/-- A running WRITE_STR puts the bytes of its string from `sidx` on, by induction on those left. -/
theorem writeStr_writesOut (str : List Byte) : ∀ (left : List Byte) (v : State), v.upc = 0 →
    str.drop v.sidx = left → WritesOut (.writeStr str) (left.map (lcdChr v)) v := by
  intro left
  induction left with
  | nil => exact fun v hu hleft => .strOk str (by rw [← List.head?_drop, hleft]; rfl) hu
  | cons c left ih =>
    intro v hu hleft
    refine ⟨.strByte str c (by rw [← List.head?_drop, hleft]; rfl) hu, fun b => ?_⟩
    have hnext : str.drop (v.sidx + 1) = left := by rw [← List.tail_drop, hleft]; rfl
    exact ih (answerWrite (lcdChr v c) .ok b v).nextSidx hu hnext

/-- Settles O22: the string's bytes are the series of its data frames. -/
theorem writeStrSendsInOrder : Obligations.WriteStrSendsInOrder := by
  refine fun str s hlen => ⟨?_, fun hs htakes => ⟨fun hm => ?_, fun hm => ?_⟩⟩
  · exact decode_encode (i := .writeStr str) rfl (decide_eq_true hlen)
  · exact manyWrites_of_writesOut (t := writeStrTable str) rfl rfl (not_holdsAnswer (by simp) (by simp))
      (by simp [microSteps]) (writeStr_writesOut str str (accepted (.writeStr str) s) rfl rfl) hs hm htakes
  · exact refused_of_mode rfl hs (by simp [hm]) htakes

end Sys2Proof.Machine
end

section
/-! The backlight operation from acceptance to response (SetRgbWritesRedGreenBlue; R120, R121): its three rows as a series
of writes that stops at the first failure. -/

namespace Sys2Proof.Machine

open Sys2Proof.Expect

/-- SET_RGB at its first row puts red, green and blue in turn, and then OK. -/
theorem setRgb_writesOut (r g b : Byte) {v : State} (hu : v.upc = 0) :
    WritesOut (.setRgb r g b) (rgbFrames v r g b) v :=
  ⟨.red r g b hu, fun _ => ⟨.green r g b (congrArg (· + 1) hu), fun _ => ⟨.blue r g b (congrArg (· + 2) hu), fun _ =>
    .rgbOk r g b (congrArg (· + 3) hu)⟩⟩⟩

/-- Settles O24: the three channels are the series of its backlight frames. -/
theorem setRgbWritesRedGreenBlue : Obligations.SetRgbWritesRedGreenBlue := by
  refine fun r g b s => ⟨rfl, fun hs htakes => ⟨fun hm => ?ready, fun hm => ?uninitialized⟩⟩
  case ready =>
    exact manyWrites_of_writesOut (t := setRgbTable r g b) rfl rfl (not_holdsAnswer (by simp) (by simp)) rfl
      (setRgb_writesOut r g b (v := accepted (.setRgb r g b) s) rfl) hs hm htakes
  case uninitialized => exact refused_of_mode rfl hs (by simp [hm]) htakes

end Sys2Proof.Machine
end

section
/-! Statuses, refusals and the end of every operation (StatusCodesAndValues, IllegalCompletes, WrongModeIsRefused,
EveryOperationEnds; R130 to R134, R163). -/

namespace Sys2Proof.Machine

open Sys2Proof.Expect

/-- Settles O10. -/
theorem statusCodesAndValues : Obligations.StatusCodesAndValues :=
  ⟨rfl, fun _ => rfl, rfl, rfl, fun _ _ => statusError_eq_some⟩

/-- Settles O32: acceptance takes no input, and the response is all that follows it. -/
theorem illegalCompletes : Obligations.IllegalCompletes := by
  intro b s hs htakes
  exact exec_completed (t := illegalTable) (w := latch (.illegal b) s) (n := 0) (operate_idle hs.1 hs.2) rfl
    (spent_acceptIllegal (.illegal b) hs.2) rfl htakes

/-- The mode that R140 asks of an operation is the one that its meaning checks. -/
theorem requiredMode_of_isOperation {i : Instr} (h : isOperation i = true) : requiredMode i = some (admittedIn i) := by
  cases i with
  | init | clear | setDisplay | setCursor | setBlink | setCursorPosition | writeChar | writeStr | setRgb => rfl
  | _ => cases h

/-- The whole meaning of an operation in a mode that does not admit it, where the host takes the response: acceptance,
then INVALID_STATE (R110, R132). -/
theorem exec_refused {i : Instr} {m : Mode} {s : State} {k : Nat} (hm : requiredMode i = some m) (hs : s.idle)
    (h : s.mode ≠ m) (hr : s.rspTakes = k + 1) :
    exec i s = .next (giveResponse .invalidState { accepted i s with rspTakes := k }) := by
  obtain ⟨t, ht⟩ := tableOf_host (host_of_requiredMode hm)
  calc exec i s
      = run t (mostWrites i + mostDelays i + 1) (raise .invalidState (accepted i s)) := by
        rw [exec_accept ht hm hs, microSteps_eq (host_of_requiredMode hm), accept_refused h, accepted]
    _ = .next (giveResponse .invalidState { accepted i s with rspTakes := k }) :=
        run_gives (s1 := accepted i s) rfl hr _

/-- Settles O30: the step of the packet's last byte is the operation's meaning, which refuses it. -/
theorem wrongModeIsRefused : Obligations.WrongModeIsRefused := by
  intro s b later i hs htakes hb hd hop hmode
  obtain ⟨k, hk⟩ : ∃ k, s.rspTakes = k + 1 := Nat.exists_eq_add_of_le' htakes
  have hstep := stepRunsTheWholePacket s b later i [] hs hb hd
  rw [exec_refused (s := { s with bytes := later, pkt := [] }) (requiredMode_of_isOperation hop) hs hmode hk] at hstep
  exact ⟨_, hstep, List.append_assoc s.trace [.op i] [.rsp .invalidState], rfl, rfl, rfl, rfl, rfl, rfl, rfl, hk,
    ⟨rfl, rfl⟩, rfl, rfl, rfl⟩

/-- Settles O53: what the operation's packet is answered with ends with its one response. -/
theorem everyOperationEnds : Obligations.EveryOperationEnds := by
  intro i s hop hwf hinv hidle hpk hanswers hends htakes
  obtain ⟨t, own, hexec, -, ht, hspent, hpacket, -⟩ :=
    exec_answers_packet (host_of_isOperation hop) hwf hinv hidle hpk hanswers hends htakes
  rw [AnswersPacket, if_pos hop] at hpacket
  obtain ⟨evs, r, rfl, -, hquiet, hstatus, hw, hd⟩ := hpacket
  exact ⟨t, evs, r, hexec, completed_of_spent hexec hspent hquiet ht, hquiet, hstatus, hw, hd⟩

end Sys2Proof.Machine
end

section
/-! The step of the idle block that runs no instruction: a byte of a packet not yet whole, and no byte at all
(StepKeepsPartialPacket, IdleBlockWaits; R162). -/

namespace Sys2Proof.Machine

/-- Settles O34: a byte of the host goes before a reset, and what the block does with it alone is to keep it. -/
theorem stepKeepsPartialPacket : Obligations.StepKeepsPartialPacket :=
  fun _ _ _ _ hs hb hd => (step_goOn (resetComes_of_byte hs hb)).trans (goOn_byte hs hb hd)

/-- No reset comes where the environment has none left. -/
theorem resetComes_of_afterResets_nil {s : State} (h : s.afterResets = []) : s.resetComes = false := by
  simp [State.resetComes, h]

/-- Settles O38: with no reset to come, the step is what the idle block does without a byte. -/
theorem idleBlockWaits : Obligations.IdleBlockWaits :=
  fun _ hs hb hr => (step_goOn (resetComes_of_afterResets_nil hr)).trans (goOn_noByte hs hb)

end Sys2Proof.Machine
end
